-- ==== Sys2Proof/Word.lean ====
section
/-! DEFINITION. The machine's three word types (20_memory.md R35, 10_state.md R20, 30_encoding.md R53). -/

namespace Sys2Proof

/-- A byte, the addressable unit (20_memory.md R35). -/
abbrev Byte := BitVec 8

/-- A 16-bit value: a checksum, a word of the sum, an `IMM` field (10_state.md R20, 30_encoding.md R53). -/
abbrev Half := BitVec 16

/-- A 32-bit command word (30_encoding.md R53). -/
abbrev CmdWord := BitVec 32

end Sys2Proof
end

