-- ==== Sys2Proof/Config.lean ====
section
/-! DEFINITION. What is fixed for the life of the machine: the implementation parameters of 00_scope.md section 4. -/

namespace Sys2Proof

/-- Where a trailing odd byte stands in the last word of a sum (00_scope.md R10). -/
inductive OddTail where
  | high
  | low
  deriving DecidableEq, Repr

/-- The configuration argument of the model (00_scope.md R6, 93_implementation_defined.md U7). Each machine carries its own, in
`State.config`, which nothing changes (log entry 6). -/
structure Config where
  /-- `MAX_FRAME`, the largest frame (header plus payload) the block holds (00_scope.md R6). -/
  maxFrame : Nat
  deriving DecidableEq, Repr

/-- The premise on a configuration (00_scope.md R6, 70_reset_and_hazards.md R119; 90_conflicts.md C9). -/
abbrev Config.Valid (c : Config) : Prop := 6 ≤ c.maxFrame

/-- The default configuration, `MAX_FRAME = 1500` (00_scope.md R6). -/
def Config.default : Config := { maxFrame := 1500 }

/-- `HEADER_LEN` (00_scope.md R5). -/
abbrev headerLen : Nat := 3

/-- `MAX_PAYLOAD = MAX_FRAME - HEADER_LEN` (00_scope.md R7; 90_conflicts.md C1). -/
def Config.maxPayload (c : Config) : Nat := c.maxFrame - headerLen

/-- `LEN_W`, the width of the length registers: the smallest width that holds every value `0..MAX_FRAME`, which is
`ceil(log2(MAX_FRAME + 1))` (00_scope.md R11), computed as one more than the position of the highest 1 of `MAX_FRAME`. -/
def Config.lenW (c : Config) : Nat := Nat.log2 c.maxFrame + 1

/-- What a length register of `LEN_W` bits holds when `n` is written to it (00_scope.md R11). -/
def Config.toLen (c : Config) (n : Nat) : Nat := n % 2 ^ c.lenW

/-- `SUM_MOD` (00_scope.md R8; 90_conflicts.md C3). -/
abbrev sumMod : Nat := 65535

/-- `ACK_MARKER` (00_scope.md R9). -/
def ackMarker : List Byte := [0x41#8, 0x43#8, 0x4B#8]

/-- `ODD_TAIL`, the named constant that 93_implementation_defined.md U6 asks for (00_scope.md R10; log entry 7). -/
def oddTail : OddTail := .high

end Sys2Proof
end

