-- ==== Sys2Proof/Syntax.lean ====
section
/-! DEFINITION. The instructions: one constructor for each row of spec/opcode_table.json. -/

namespace Sys2Proof

/-- The 15 commands of 30_encoding.md R54, and the three frame patterns of R48 and R52 that the table lists beside them
("not a command": log entry 8). -/
inductive Instr where
  /-- `WRSEQ imm8` (42_operand_commands.md R89). -/
  | wrseq (imm8 : Byte)
  /-- `WRCSUM imm16` (42_operand_commands.md R90). -/
  | wrcsum (imm16 : Half)
  /-- `PCLR` (42_operand_commands.md R91). -/
  | pclr
  /-- `PPUSH imm8` (42_operand_commands.md R92). -/
  | ppush (imm8 : Byte)
  /-- `FCLR` (42_operand_commands.md R93). -/
  | fclr
  /-- `FPUSH imm8` (42_operand_commands.md R94). -/
  | fpush (imm8 : Byte)
  /-- `CSUM` (40_checksum_codec.md R73). -/
  | csum
  /-- `VRFY` (40_checksum_codec.md R74). -/
  | vrfy
  /-- `ENC` (41_packet_framer.md R83). -/
  | enc
  /-- `HSEQ` (41_packet_framer.md R84). -/
  | hseq
  /-- `ISACK` (41_packet_framer.md R85). -/
  | isack
  /-- `PLD` (41_packet_framer.md R86). -/
  | pld
  /-- `ISCOR` (41_packet_framer.md R87). -/
  | iscor
  /-- `MKPKT` (43_composite_commands.md R95). -/
  | mkpkt
  /-- `MKACK` (43_composite_commands.md R96). -/
  | mkack
  /-- `FRAME.DATA`: the 24-bit header `0000000s cccccccc cccccccc` of a frame (30_encoding.md R48). -/
  | frameData (s : BitVec 1) (c : Half)
  /-- `FRAME.ACK0`: the whole ACK frame for sequence 0 (30_encoding.md R52). -/
  | frameAck0
  /-- `FRAME.ACK1`: the whole ACK frame for sequence 1 (30_encoding.md R52). -/
  | frameAck1
  deriving DecidableEq, Repr

/-- The table's two formats. -/
inductive Format where
  /-- A 32-bit command word (30_encoding.md R53). -/
  | cmd32
  /-- A wire format, not a command (30_encoding.md R48). -/
  | frame
  deriving DecidableEq, Repr

/-- The table's "format" column. -/
def Instr.format : Instr → Format
  | .wrseq _ => .cmd32
  | .wrcsum _ => .cmd32
  | .pclr => .cmd32
  | .ppush _ => .cmd32
  | .fclr => .cmd32
  | .fpush _ => .cmd32
  | .csum => .cmd32
  | .vrfy => .cmd32
  | .enc => .cmd32
  | .hseq => .cmd32
  | .isack => .cmd32
  | .pld => .cmd32
  | .iscor => .cmd32
  | .mkpkt => .cmd32
  | .mkack => .cmd32
  | .frameData _ _ => .frame
  | .frameAck0 => .frame
  | .frameAck1 => .frame

end Sys2Proof
end

