-- ==== Sys2Proof/WellFormed.lean ====
section
/-! DEFINITION. Which instructions are well formed: those the host can issue as a command word. -/

namespace Sys2Proof

/-- An instruction is well formed when it is a command, not a frame pattern (30_encoding.md R53, R54). The operand widths need
no check: `imm8` and `imm16` are a `Byte` and a `Half` by type, and every value of them is accepted (R55). -/
abbrev Instr.WellFormed (i : Instr) : Prop := i.format = .cmd32

end Sys2Proof
end

