-- ==== Sys2Proof/Decode.lean ====
section
/-! DEFINITION. The command-word decoder and encoder (30_encoding.md R53 to R56), the frame patterns' recogniser and bytes
(R48, R52), and the opcode table's numbering of an instruction's bits. -/

namespace Sys2Proof

/-- Why a bit pattern is no instruction. For a command word each of the first three is the cause of `ILLEGAL`
(60_exceptions.md R103). -/
inductive DecodeError where
  /-- `RSV != 0`. -/
  | reservedNotZero
  /-- `OP` is not one of the 15 codes. -/
  | unknownOp
  /-- A 1 in a bit of `IMM` the command does not use. -/
  | unusedImmNotZero
  /-- The bytes are none of the table's three frame patterns. -/
  | notAFramePattern
  deriving DecidableEq, Repr

/-! ## Command words -/

/-- `OP = cw[31:24]` (30_encoding.md R53). -/
def opField (cw : CmdWord) : Byte := cw.extractLsb' 24 8

/-- `RSV = cw[23:16]` (30_encoding.md R53). -/
def rsvField (cw : CmdWord) : Byte := cw.extractLsb' 16 8

/-- `IMM = cw[15:0]` (30_encoding.md R53). -/
def immField (cw : CmdWord) : Half := cw.extractLsb' 0 16

/-- `IMM[15:8]`, which an `imm8` command requires to be 0 (30_encoding.md R55). -/
def immHigh (imm : Half) : Byte := imm.extractLsb' 8 8

/-- `imm8 = IMM[7:0]` (30_encoding.md R55). -/
def immLow (imm : Half) : Byte := imm.extractLsb' 0 8

/-- A command with an `imm8` (30_encoding.md R55). -/
def imm8Form (mk : Byte → Instr) (imm : Half) : Except DecodeError Instr :=
  if immHigh imm = 0#8 then .ok (mk (immLow imm)) else .error .unusedImmNotZero

/-- A command with an `imm16` (30_encoding.md R55). -/
def imm16Form (mk : Half → Instr) (imm : Half) : Except DecodeError Instr := .ok (mk imm)

/-- A command without an operand requires `IMM = 0x0000` (30_encoding.md R55). -/
def noOperandForm (i : Instr) (imm : Half) : Except DecodeError Instr :=
  if imm = 0#16 then .ok i else .error .unusedImmNotZero

/-- The opcode map (30_encoding.md R54). -/
def decodeOp (op : Byte) (imm : Half) : Except DecodeError Instr :=
  match op.toNat with
  | 0x01 => imm8Form .wrseq imm
  | 0x02 => imm16Form .wrcsum imm
  | 0x03 => noOperandForm .pclr imm
  | 0x04 => imm8Form .ppush imm
  | 0x05 => noOperandForm .fclr imm
  | 0x06 => imm8Form .fpush imm
  | 0x10 => noOperandForm .csum imm
  | 0x11 => noOperandForm .vrfy imm
  | 0x20 => noOperandForm .enc imm
  | 0x21 => noOperandForm .hseq imm
  | 0x22 => noOperandForm .isack imm
  | 0x23 => noOperandForm .pld imm
  | 0x24 => noOperandForm .iscor imm
  | 0x30 => noOperandForm .mkpkt imm
  | 0x31 => noOperandForm .mkack imm
  | _ => .error .unknownOp

/-- Decoding a command word (30_encoding.md R53); it depends on no state. -/
def decode (cw : CmdWord) : Except DecodeError Instr :=
  if rsvField cw = 0#8 then decodeOp (opField cw) (immField cw) else .error .reservedNotZero

/-- The command word with operation code `op`, `RSV = 0` and immediate `imm` (30_encoding.md R53). -/
def cmdWord (op : Byte) (imm : Half) : CmdWord := (op.setWidth 32 <<< 24) ||| imm.setWidth 32

/-- The command word of a command (30_encoding.md R54). For a frame pattern, which is no command: the first 32-bit word of the
row's bits as the table numbers them, an illegal word in each case (R56; log entry 8). -/
def encode : Instr → CmdWord
  | .wrseq b => cmdWord 0x01#8 (b.setWidth 16)
  | .wrcsum c => cmdWord 0x02#8 c
  | .pclr => cmdWord 0x03#8 0#16
  | .ppush b => cmdWord 0x04#8 (b.setWidth 16)
  | .fclr => cmdWord 0x05#8 0#16
  | .fpush b => cmdWord 0x06#8 (b.setWidth 16)
  | .csum => cmdWord 0x10#8 0#16
  | .vrfy => cmdWord 0x11#8 0#16
  | .enc => cmdWord 0x20#8 0#16
  | .hseq => cmdWord 0x21#8 0#16
  | .isack => cmdWord 0x22#8 0#16
  | .pld => cmdWord 0x23#8 0#16
  | .iscor => cmdWord 0x24#8 0#16
  | .mkpkt => cmdWord 0x30#8 0#16
  | .mkack => cmdWord 0x31#8 0#16
  | .frameData s c => (s.setWidth 32 <<< 16) ||| c.setWidth 32
  | .frameAck0 => 0x7341434B#32
  | .frameAck1 => 0x7341434B#32

/-! ## Frame patterns -/

/-- The wire bytes of the table's frame rows (30_encoding.md R48, R52); a command has none. -/
def wireBytes : Instr → Option (List Byte)
  | .frameData s c => some [s.setWidth 8, c.extractLsb' 8 8, c.extractLsb' 0 8]
  | .frameAck0 => some [0x00#8, 0xBC#8, 0x73#8, 0x41#8, 0x43#8, 0x4B#8]
  | .frameAck1 => some [0x01#8, 0xBB#8, 0x73#8, 0x41#8, 0x43#8, 0x4B#8]
  | .wrseq _ => none
  | .wrcsum _ => none
  | .pclr => none
  | .ppush _ => none
  | .fclr => none
  | .fpush _ => none
  | .csum => none
  | .vrfy => none
  | .enc => none
  | .hseq => none
  | .isack => none
  | .pld => none
  | .iscor => none
  | .mkpkt => none
  | .mkack => none

/-- Recognising a frame row's bytes: a 3-byte header whose first byte is 0 or 1, or one of the two whole ACK frames
(30_encoding.md R48, R52). -/
def decodeFrame (bytes : List Byte) : Except DecodeError Instr :=
  match bytes with
  | [b0, b1, b2] =>
    if b0.extractLsb' 1 7 = 0#7 then
      .ok (.frameData (b0.extractLsb' 0 1) ((b1.setWidth 16 <<< 8) ||| b2.setWidth 16))
    else .error .notAFramePattern
  | _ =>
    if some bytes = wireBytes .frameAck0 then .ok .frameAck0
    else if some bytes = wireBytes .frameAck1 then .ok .frameAck1
    else .error .notAFramePattern

/-! ## The opcode table's numbering -/

/-- The low `n` bytes of a number, most significant first (the order of 30_encoding.md R48 and R60). -/
def bytesOf : Nat → Nat → List Byte
  | 0, _ => []
  | n + 1, w => BitVec.ofNat 8 (w / 256 ^ n) :: bytesOf n w

/-- The 32-bit command words that the bits of a table row make, the first word in bits 31..0 (the table's numbering). -/
def commandWordsOf (nbits w : Nat) : List CmdWord :=
  (List.range ((nbits + 31) / 32)).map fun k => BitVec.ofNat 32 (w / 2 ^ (32 * k))

/-- The instruction the decoder reads from an instruction of `nbits` bits numbered as spec/opcode_table.json numbers them:
a 32-bit command word, or a frame pattern of 3 or 6 bytes. -/
def decodeTableWord (nbits w : Nat) : Option Instr :=
  match nbits with
  | 32 => (decode (BitVec.ofNat 32 w)).toOption
  | 24 => (decodeFrame (bytesOf 3 w)).toOption
  | 48 => (decodeFrame (bytesOf 6 w)).toOption
  | _ => none

end Sys2Proof
end

