-- ==== Sys2Proof/Machine/State.lean ====
section
/-! DEFINITION. The machine's state (10_state.md R16 to R32), the reasons a step of the model can stop, and the state after
reset. -/

namespace Sys2Proof.Machine

/-- The contents of the 2-bit status field `FAULT` (10_state.md R23; codes in 60_exceptions.md R101; log entry 12). -/
inductive FaultCode where
  /-- Code 0: no fault since reset. -/
  | none
  /-- Code 1, `ILLEGAL`: the command word does not decode (60_exceptions.md R103). -/
  | illegal
  /-- Code 2, `OVERSIZE`: a push into a full buffer (60_exceptions.md R104). -/
  | oversize
  /-- Code 3, `BADSEQ`: a sequence tag above 1 offered for transmission (60_exceptions.md R105). -/
  | badseq
  deriving DecidableEq, Repr

/-- What the host can do between steps (10_state.md R29, 70_reset_and_hazards.md R115, R130; log entries 1 and 3). -/
inductive HostAction where
  /-- Issue a command word. -/
  | command (cw : CmdWord)
  /-- Assert the reset input. -/
  | reset
  deriving DecidableEq, Repr

/-- The contents of a buffer: (offset, byte) cells, offsets strictly rising. An unlisted offset has NO value: 10_state.md R31
forbids a model to give one to a byte that nothing has written or that is stale (log entry 4). -/
abbrev Memory := List Host.Cell

/-- The machine state (10_state.md R16), one field for each piece, its configuration, and the host's list of
actions still to come. -/
structure State where
  /-- NOT state of the block: its configuration, fixed for the life of the machine (10_state.md R16, R25; log entry 6). -/
  config : Config
  /-- `SEQ`, the sequence-tag operand (10_state.md R19). -/
  seq : Byte
  /-- `CSUM`, the checksum operand and result (10_state.md R20). -/
  csum : Half
  /-- `RES`, the result of the last predicate command (10_state.md R21). -/
  res : Bool
  /-- `RUNT`, the frame examined was shorter than its header (10_state.md R22). -/
  runt : Bool
  /-- `FAULT`, the first fault since reset (10_state.md R23). -/
  fault : FaultCode
  /-- `FCMD`, the command word that caused it (10_state.md R24). -/
  fcmd : CmdWord
  /-- `PLEN`, the number of valid bytes of `PBUF`, a register of `LEN_W` bits (10_state.md R25, R26; log entry 6). -/
  plen : Nat
  /-- `PBUF`, the payload buffer (10_state.md R26). -/
  pbuf : Memory
  /-- `FLEN`, the number of valid bytes of `FBUF`, a register of `LEN_W` bits (10_state.md R25, R27; log entry 6). -/
  flen : Nat
  /-- `FBUF`, the frame buffer (10_state.md R27). -/
  fbuf : Memory
  /-- NOT state of the block: what the host has yet to give it (10_state.md R29; log entry 1). -/
  pending : List HostAction
  deriving DecidableEq, Repr

/-- The reasons the MODEL stops; none is a fault of the block, whose faults are next states (60_exceptions.md R108). No run
from reset meets one (log entry 5). -/
inductive Fault where
  /-- Raised by a command that reads `P` when an offset below `PLEN` has never been written. Safe: the model stops. -/
  | unwrittenPayloadByte
  /-- Raised by a command that reads `F` when an offset below `FLEN` has never been written. Safe: the model stops. -/
  | unwrittenFrameByte
  /-- Raised by a store to `PBUF` at or past `MAX_PAYLOAD`, an offset that does not exist (20_memory.md R42). Safe. -/
  | outsidePayloadBuffer
  /-- Raised by a store to `FBUF` at or past `MAX_FRAME`, an offset that does not exist (20_memory.md R42). Safe. -/
  | outsideFrameBuffer
  deriving DecidableEq, Repr

/-- The reasons the model gives an instruction no meaning. -/
inductive Refusal where
  /-- Raised by an arm of exec whose instruction has no meaning yet; no arm does. Safe: the model stops. -/
  | notModelled (mnemonic : String)
  deriving DecidableEq, Repr

/-- What a command answers. -/
abbrev Outcome := Host.Outcome State Fault Refusal

/-- The state after reset of a block of configuration `c` (10_state.md R32, 70_reset_and_hazards.md R117): every register 0, both
buffers empty, no byte of either with a value; and no host action pending. -/
def State.resetWith (c : Config) : State where
  config := c
  seq := 0x00#8
  csum := 0x0000#16
  res := false
  runt := false
  fault := .none
  fcmd := 0x00000000#32
  plen := 0
  pbuf := []
  flen := 0
  fbuf := []
  pending := []

/-- The state after reset of the block of the default configuration, `MAX_FRAME = 1500` (00_scope.md R6). -/
def State.reset : State := State.resetWith Config.default

end Sys2Proof.Machine
end

