-- ==== Sys2Proof/Machine/Ops.lean ====
section
/-! DEFINITION. The named operations over the buffers and registers, fault entry, the halted state and reset. -/

namespace Sys2Proof.Machine

/-! ## One buffer -/

/-- `MemRead(space, a, 1)` (00_scope.md R14): the byte at offset `a`, if it has a value. -/
def Memory.read : Memory → Nat → Option Byte
  | [], _ => none
  | (k, v) :: m, a => if k = a then some v else Memory.read m a

/-- `MemWrite(space, a, 1, b)` (00_scope.md R14), keeping the offsets strictly rising. -/
def Memory.write : Memory → Nat → Byte → Memory
  | [], a, b => [(a, b)]
  | (k, v) :: m, a, b =>
    if a < k then (a, b) :: (k, v) :: m
    else if a = k then (a, b) :: m
    else (k, v) :: Memory.write m a b

/-- The buffer that holds the bytes `bs` from offset `base` on and no other byte. -/
def Memory.ofBytes : Nat → List Byte → Memory
  | _, [] => []
  | base, b :: bs => (base, b) :: Memory.ofBytes (base + 1) bs

/-- The `n` bytes from offset `base` on, if every one of them has a value. -/
def Memory.readFrom (m : Memory) : Nat → Nat → Option (List Byte)
  | _, 0 => some []
  | base, n + 1 =>
    match m.read base, Memory.readFrom m (base + 1) n with
    | some b, some bs => some (b :: bs)
    | _, _ => none

/-- The canonical form: offsets strictly rising (so no offset is listed twice). An unlisted offset has no value, so no cell can
equal what an unlisted offset reads as. -/
abbrev Memory.wf (m : Memory) : Prop := (m.map Prod.fst).Pairwise (· < ·)

/-- The listed offsets are exactly those below `n`: every byte below the length has a value and no other byte has one
(10_state.md R31). -/
abbrev Memory.covers (m : Memory) (n : Nat) : Prop := m.map Prod.fst = List.range n

/-! ## The two operand sequences -/

/-- `P = PBUF[0..PLEN)` (00_scope.md R14). -/
def State.payload (s : State) : Option (List Byte) := s.pbuf.readFrom 0 s.plen

/-- `F = FBUF[0..FLEN)` (00_scope.md R14). -/
def State.frame (s : State) : Option (List Byte) := s.fbuf.readFrom 0 s.flen

/-- Continue with `P`. -/
def withPayload (s : State) (body : List Byte → Outcome) : Outcome :=
  match s.payload with
  | some p => body p
  | none => .fault .unwrittenPayloadByte

/-- Continue with `F`. -/
def withFrame (s : State) (body : List Byte → Outcome) : Outcome :=
  match s.frame with
  | some f => body f
  | none => .fault .unwrittenFrameByte

/-! ## Whole-buffer and appending updates -/

/-- `PBUF` holds exactly `bs` and `PLEN` is their number; the previous content is lost (41_packet_framer.md R86). -/
def State.loadPayload (s : State) (bs : List Byte) : State :=
  { s with pbuf := Memory.ofBytes 0 bs, plen := s.config.toLen bs.length }

/-- `FBUF` holds exactly `bs` and `FLEN` is their number; the previous content is lost (41_packet_framer.md R83). -/
def State.loadFrame (s : State) (bs : List Byte) : State :=
  { s with fbuf := Memory.ofBytes 0 bs, flen := s.config.toLen bs.length }

/-- `PBUF[PLEN] <- b; PLEN <- PLEN + 1` (42_operand_commands.md R92). -/
def State.appendPayload (s : State) (b : Byte) : State :=
  { s with pbuf := s.pbuf.write s.plen b, plen := s.config.toLen (s.plen + 1) }

/-- `FBUF[FLEN] <- b; FLEN <- FLEN + 1` (42_operand_commands.md R94). -/
def State.appendFrame (s : State) (b : Byte) : State :=
  { s with fbuf := s.fbuf.write s.flen b, flen := s.config.toLen (s.flen + 1) }

/-! ## Faults -/

/-- `code(X)`, the 2-bit value the host reads in `FAULT` (60_exceptions.md R101). -/
def FaultCode.code : FaultCode → BitVec 2
  | .none => 0#2
  | .illegal => 1#2
  | .oversize => 2#2
  | .badseq => 3#2

/-- Fault entry, `raise X(cw)`: `FAULT <- code(X); FCMD <- cw` and nothing else (60_exceptions.md R102, R108). There is no
return beside it (R110): only `resetBlock` leaves the halted state. -/
def State.raise (s : State) (x : FaultCode) (cw : CmdWord) : State := { s with fault := x, fcmd := cw }

/-- The halted state: `FAULT != 0` (60_exceptions.md R109). -/
abbrev State.Halted (s : State) : Prop := s.fault ≠ .none

/-- While halted a command changes nothing, whatever it is (60_exceptions.md R106, R109). -/
def whileRunning (s : State) (body : Outcome) : Outcome :=
  if s.Halted then .next s else body

/-- A word that does not decode raises `ILLEGAL` (60_exceptions.md R103). -/
def illegalWord (cw : CmdWord) (s : State) : Outcome :=
  whileRunning s (.next (s.raise .illegal cw))

/-- The check of the frame-building commands: `if SEQ > 1: raise BADSEQ(cw)` (60_exceptions.md R105). -/
def withSendableSeq (cw : CmdWord) (s : State) (body : Outcome) : Outcome :=
  if 1 < s.seq.toNat then .next (s.raise .badseq cw) else body

/-! ## Stores with the buffers' bounds -/

/-- `PPUSH`'s store: `OVERSIZE` when `PLEN == MAX_PAYLOAD` (60_exceptions.md R104); no offset past that exists
(20_memory.md R42). -/
def pushPayload (cw : CmdWord) (b : Byte) (s : State) : Outcome :=
  if s.plen = s.config.maxPayload then .next (s.raise .oversize cw)
  else if s.plen < s.config.maxPayload then .next (s.appendPayload b)
  else .fault .outsidePayloadBuffer

/-- `FPUSH`'s store: `OVERSIZE` when `FLEN == MAX_FRAME` (60_exceptions.md R104); no offset past that exists
(20_memory.md R42). -/
def pushFrame (cw : CmdWord) (b : Byte) (s : State) : Outcome :=
  if s.flen = s.config.maxFrame then .next (s.raise .oversize cw)
  else if s.flen < s.config.maxFrame then .next (s.appendFrame b)
  else .fault .outsideFrameBuffer

/-- `PBUF[0..n) <- bs; PLEN <- n` within `PBUF`'s capacity (20_memory.md R42). -/
def storePayload (bs : List Byte) (s : State) : Outcome :=
  if bs.length ≤ s.config.maxPayload then .next (s.loadPayload bs) else .fault .outsidePayloadBuffer

/-- `FBUF[0..n) <- bs; FLEN <- n` within `FBUF`'s capacity (20_memory.md R42). -/
def storeFrame (bs : List Byte) (s : State) : Outcome :=
  if bs.length ≤ s.config.maxFrame then .next (s.loadFrame bs) else .fault .outsideFrameBuffer

/-! ## Reset -/

/-- The reset input: the reset state, whatever the state was, `MAX_FRAME` not being changed (70_reset_and_hazards.md R115, R116).
What the host has yet to give is not state of the block and stays (log entry 3). -/
def resetBlock (s : State) : State := { State.resetWith s.config with pending := s.pending }

end Sys2Proof.Machine
end

