-- ==== Sys2Proof/Machine/Operands.lean ====
section
/-! DEFINITION. Byte order, word formation and the modular sum: the operand forms of the Level F functions
(20_memory.md R36 to R39, 40_checksum_codec.md R61, R62, R68). -/

namespace Sys2Proof.Machine

/-- `word(h, l) = h * 256 + l`, the big-endian word of two bytes (00_scope.md R14). -/
def word (h l : Byte) : Half := BitVec.ofNat 16 (h.toNat * 256 + l.toNat)

/-- `hi8(v) = v[15:8]` (00_scope.md R14). -/
def hi8 (v : Half) : Byte := v.extractLsb' 8 8

/-- `lo8(v) = v[7:0]` (00_scope.md R14). -/
def lo8 (v : Half) : Byte := v.extractLsb' 0 8

/-- The last word of an odd number of bytes (00_scope.md R10; 40_checksum_codec.md R61). -/
def tailWord : OddTail → Byte → Half
  | .high, b => word b 0#8
  | .low, b => word 0#8 b

/-- `words(b)` with the odd trailing byte placed by `t` (40_checksum_codec.md R61). -/
def wordsWith (t : OddTail) : List Byte → List Half
  | [] => []
  | [b] => [tailWord t b]
  | h :: l :: bs => word h l :: wordsWith t bs

/-- `words(b)` (40_checksum_codec.md R61). -/
def words (bs : List Byte) : List Half := wordsWith oddTail bs

/-- The unreduced sum of a list of words, a plain number (40_checksum_codec.md R62; 92_eei_decisions.md D18). -/
def wordSum : List Half → Nat
  | [] => 0
  | w :: ws => w.toNat + wordSum ws

/-- `sum16(b)`, in 0..65534 (40_checksum_codec.md R62). -/
def sum16 (bs : List Byte) : Nat := wordSum (words bs) % sumMod

/-- `addmod(a, w)`: one 17-bit addition and one conditional subtraction (40_checksum_codec.md R68). -/
def addmod (a w : Half) : Half :=
  let t := a.toNat + w.toNat
  if t < sumMod then BitVec.ofNat 16 t else BitVec.ofNat 16 (t - sumMod)

end Sys2Proof.Machine
end

