-- ==== Sys2Proof/Machine/Flags.lean ====
section
/-! DEFINITION. How the two flags are computed and written: `RES` (10_state.md R21) and `RUNT` (R22). -/

namespace Sys2Proof.Machine

/-- `RES <- 1 if b else 0` (10_state.md R21). -/
def State.setRes (s : State) (b : Bool) : State := { s with res := b }

/-- `RUNT <- 1` or `RUNT <- 0` (10_state.md R22). -/
def State.setRunt (s : State) (b : Bool) : State := { s with runt := b }

/-- `FLEN < 3`: the frame is shorter than its header (10_state.md R22, 41_packet_framer.md R80). -/
abbrev State.FrameIsRunt (s : State) : Prop := s.flen < headerLen

/-- The common form of the four commands that examine a frame: `RUNT <- 1` and the runt's answer when `FLEN < 3`, otherwise
`RUNT <- 0` and the answer for `F` (10_state.md R22, 41_packet_framer.md R84 to R87). -/
def examineFrame (s : State) (onRunt : State → Outcome) (onFrame : List Byte → State → Outcome) : Outcome :=
  if s.FrameIsRunt then onRunt (s.setRunt true)
  else withFrame s fun f => onFrame f (s.setRunt false)

end Sys2Proof.Machine
end

