-- ==== Sys2Proof/Machine/Codec.lean ====
section
/-! DEFINITION. The checksum codec: the functions `checksum` and `verify` and their commands (40_checksum_codec.md). -/

namespace Sys2Proof.Machine

/-- `checksum(seq, payload) = 65535 - sum16([seq] ‖ payload)` (40_checksum_codec.md R63). -/
def checksum (seq : Byte) (payload : List Byte) : Half :=
  BitVec.ofNat 16 (65535 - sum16 (seq :: payload))

/-- `verify(seq, payload, c)`: `sum16([seq] ‖ payload) + c == 65535` on plain integers (40_checksum_codec.md R64). -/
def verify (seq : Byte) (payload : List Byte) (c : Half) : Bool :=
  sum16 (seq :: payload) + c.toNat == 65535

/-- `CSUM` (40_checksum_codec.md R73). -/
def execCsum (s : State) : Outcome :=
  whileRunning s (withPayload s fun p => .next { s with csum := checksum s.seq p })

/-- `VRFY` (40_checksum_codec.md R74). -/
def execVrfy (s : State) : Outcome :=
  whileRunning s (withPayload s fun p => .next (s.setRes (verify s.seq p s.csum)))

end Sys2Proof.Machine
end

