-- ==== Sys2Proof/Machine/Framer.lean ====
section
/-! DEFINITION. The packet framer: the functions `encode`, `has_seq`, `is_ack`, `payload_of`, `is_corrupted` and their commands
(41_packet_framer.md). -/

namespace Sys2Proof.Machine

/-- `encode(seq, payload, c)` (41_packet_framer.md R75). -/
def encodeFrame (seq : Byte) (payload : List Byte) (c : Half) : List Byte :=
  seq :: hi8 c :: lo8 c :: payload

/-- `has_seq(seq, raw)` (41_packet_framer.md R76); false for a runt (R80). -/
def hasSeq (seq : Byte) (raw : List Byte) : Bool :=
  match raw with
  | s :: _ :: _ :: _ => s == seq
  | _ => false

/-- `payload_of(raw)`, the bytes after the header (41_packet_framer.md R78); empty for a runt (R80). -/
def payloadOf (raw : List Byte) : List Byte := raw.drop headerLen

/-- `is_ack(raw, seq)`: the whole payload is the marker (41_packet_framer.md R77); false for a runt (R80). -/
def isAck (raw : List Byte) (seq : Byte) : Bool := hasSeq seq raw && payloadOf raw == ackMarker

/-- `is_corrupted(raw)` (41_packet_framer.md R79); true for a runt (R80). -/
def isCorrupted (raw : List Byte) : Bool :=
  match raw with
  | s :: h :: l :: p => checksum s p != word h l
  | _ => true

/-- `ENC` (41_packet_framer.md R83). -/
def execEnc (s : State) : Outcome :=
  whileRunning s (withSendableSeq (encode .enc) s (withPayload s fun p => storeFrame (encodeFrame s.seq p s.csum) s))

/-- `HSEQ` (41_packet_framer.md R84). -/
def execHseq (s : State) : Outcome :=
  whileRunning s (examineFrame s (fun t => .next (t.setRes false)) fun f t => .next (t.setRes (hasSeq s.seq f)))

/-- `ISACK` (41_packet_framer.md R85). -/
def execIsack (s : State) : Outcome :=
  whileRunning s (examineFrame s (fun t => .next (t.setRes false)) fun f t => .next (t.setRes (isAck f s.seq)))

/-- `PLD` (41_packet_framer.md R86). -/
def execPld (s : State) : Outcome :=
  whileRunning s (examineFrame s (fun t => .next (t.loadPayload [])) fun f t => storePayload (payloadOf f) t)

/-- `ISCOR` (41_packet_framer.md R87). -/
def execIscor (s : State) : Outcome :=
  whileRunning s (examineFrame s (fun t => .next (t.setRes true)) fun f t => .next (t.setRes (isCorrupted f)))

end Sys2Proof.Machine
end

