-- ==== Sys2Proof/Machine/Composite.lean ====
section
/-! DEFINITION. The composite commands (43_composite_commands.md). -/

namespace Sys2Proof.Machine

/-- Compute the checksum of `(SEQ, payload)` into `CSUM` and build the frame (43_composite_commands.md R95, R96). -/
def makePacket (payload : List Byte) (s : State) : Outcome :=
  storeFrame (encodeFrame s.seq payload (checksum s.seq payload)) { s with csum := checksum s.seq payload }

/-- `MKPKT` (43_composite_commands.md R95). -/
def execMkpkt (s : State) : Outcome :=
  whileRunning s (withSendableSeq (encode .mkpkt) s (withPayload s fun p => makePacket p s))

/-- `MKACK` (43_composite_commands.md R96). -/
def execMkack (s : State) : Outcome :=
  whileRunning s (withSendableSeq (encode .mkack) s (makePacket ackMarker s))

end Sys2Proof.Machine
end

