-- ==== Sys2Proof/Machine/Load.lean ====
section
/-! DEFINITION. The operand-loading commands (42_operand_commands.md). -/

namespace Sys2Proof.Machine

/-- `WRSEQ imm8` (42_operand_commands.md R89). -/
def execWrseq (imm8 : Byte) (s : State) : Outcome :=
  whileRunning s (.next { s with seq := imm8 })

/-- `WRCSUM imm16` (42_operand_commands.md R90). -/
def execWrcsum (imm16 : Half) (s : State) : Outcome :=
  whileRunning s (.next { s with csum := imm16 })

/-- `PCLR` (42_operand_commands.md R91): the bytes become unspecified, so they lose their value. -/
def execPclr (s : State) : Outcome :=
  whileRunning s (.next (s.loadPayload []))

/-- `PPUSH imm8` (42_operand_commands.md R92). -/
def execPpush (imm8 : Byte) (s : State) : Outcome :=
  whileRunning s (pushPayload (encode (.ppush imm8)) imm8 s)

/-- `FCLR` (42_operand_commands.md R93): the bytes become unspecified, so they lose their value. -/
def execFclr (s : State) : Outcome :=
  whileRunning s (.next (s.loadFrame []))

/-- `FPUSH imm8` (42_operand_commands.md R94). -/
def execFpush (imm8 : Byte) (s : State) : Outcome :=
  whileRunning s (pushFrame (encode (.fpush imm8)) imm8 s)

end Sys2Proof.Machine
end

