-- ==== Sys2Proof/Machine/Wire.lean ====
section
/-! DEFINITION. The opcode table's three frame rows, which are wire formats and no commands (30_encoding.md R48, R52): offered
to the block as a command word, the bits of each are an illegal word, and the step raises `ILLEGAL` (R53, R56;
60_exceptions.md R103; log entry 8). -/

namespace Sys2Proof.Machine

/-- `FRAME.DATA` offered as a command word: its `OP` is 0x00, an illegal code (30_encoding.md R56). -/
def execFrameData (tag : BitVec 1) (c : Half) (s : State) : Outcome :=
  illegalWord (encode (.frameData tag c)) s

/-- `FRAME.ACK0` offered as a command word: not a word of the opcode map (30_encoding.md R56). -/
def execFrameAck0 (s : State) : Outcome := illegalWord (encode .frameAck0) s

/-- `FRAME.ACK1` offered as a command word: not a word of the opcode map (30_encoding.md R56). -/
def execFrameAck1 (s : State) : Outcome := illegalWord (encode .frameAck1) s

end Sys2Proof.Machine
end

