-- ==== Sys2Proof/Machine/Dispatch.lean ====
section
/-! DEFINITION. One arm for each instruction. -/

namespace Sys2Proof.Machine

/-- What each instruction does. -/
def exec (i : Instr) (s : State) : Host.Outcome State Fault Refusal :=
  match i with
  | .wrseq imm8 => Sys2Proof.Machine.execWrseq imm8 s
  | .wrcsum imm16 => Sys2Proof.Machine.execWrcsum imm16 s
  | .pclr => Sys2Proof.Machine.execPclr s
  | .ppush imm8 => Sys2Proof.Machine.execPpush imm8 s
  | .fclr => Sys2Proof.Machine.execFclr s
  | .fpush imm8 => Sys2Proof.Machine.execFpush imm8 s
  | .csum => Sys2Proof.Machine.execCsum s
  | .vrfy => Sys2Proof.Machine.execVrfy s
  | .enc => Sys2Proof.Machine.execEnc s
  | .hseq => Sys2Proof.Machine.execHseq s
  | .isack => Sys2Proof.Machine.execIsack s
  | .pld => Sys2Proof.Machine.execPld s
  | .iscor => Sys2Proof.Machine.execIscor s
  | .mkpkt => Sys2Proof.Machine.execMkpkt s
  | .mkack => Sys2Proof.Machine.execMkack s
  | .frameData tag c => Sys2Proof.Machine.execFrameData tag c s
  | .frameAck0 => Sys2Proof.Machine.execFrameAck0 s
  | .frameAck1 => Sys2Proof.Machine.execFrameAck1 s

end Sys2Proof.Machine
end

