-- ==== Sys2Proof/Machine/Issue.lean ====
section
/-! DEFINITION. What the block does with what the host gives it: a command word or reset (10_state.md R17,
70_reset_and_hazards.md R115), and a run over a list of command words (R129). -/

namespace Sys2Proof.Machine

/-- One command word: the rule of the command it decodes to, or `ILLEGAL` (30_encoding.md R53). -/
def issueWord (cw : CmdWord) (s : State) : Outcome :=
  match decode cw with
  | .ok i => exec i s
  | .error _ => illegalWord cw s

/-- One host action. -/
def hostAct (a : HostAction) (s : State) : Outcome :=
  match a with
  | .command cw => issueWord cw s
  | .reset => .next (resetBlock s)

/-- The machine's step: it takes the host's next action, which is used up whatever the step does with it (10_state.md R29).
With nothing pending the block is idle, which has no effect (60_exceptions.md R114; log entry 2). -/
def takeStep (s : State) : Outcome :=
  match s.pending with
  | [] => .next s
  | a :: rest => hostAct a { s with pending := rest }

/-- The bits of a table row offered to the block next, as command words (log entry 1). -/
def offerWords (nbits w : Nat) (s : State) : State :=
  { s with pending := (commandWordsOf nbits w).map .command ++ s.pending }

/-- A run: the command words in order, one per step (70_reset_and_hazards.md R129). -/
def runWords : List CmdWord → State → Outcome
  | [], s => .next s
  | cw :: cws, s =>
    match issueWord cw s with
    | .next t => runWords cws t
    | .fault x => .fault x
    | .refused x => .refused x

end Sys2Proof.Machine
end

