-- ==== Sys2Proof/Machine/Step.lean ====
section
/-! DEFINITION. The step, and an instruction placed where the step takes its next one. -/

namespace Sys2Proof.Machine

/-- One step (10_state.md R17, R29). -/
def step : State → Host.Outcome State Fault Refusal := takeStep

/-- `s` with the instruction's bits offered to the block next. -/
def State.withFetchWord (s : State) (nbits w : Nat) : State := offerWords nbits w s

end Sys2Proof.Machine
end

