-- ==== Sys2Proof/Machine/Assembler.lean ====
section
/-! DEFINITION. Assembler syntax and the pseudo-instructions (30_encoding.md R58, R59). A line is a list of characters. -/

namespace Sys2Proof.Machine

/-- The pseudo-instructions (30_encoding.md R59). -/
inductive Pseudo where
  /-- `PLOAD b0 .. bn-1`, or `PLOAD "text"`. -/
  | pload (bytes : List Byte)
  /-- `FLOAD b0 .. bn-1`. -/
  | fload (bytes : List Byte)
  /-- `CHECK`. -/
  | check
  deriving DecidableEq, Repr

/-- Their expansions (30_encoding.md R59). -/
def Pseudo.expand : Pseudo → List Instr
  | .pload bytes => .pclr :: bytes.map .ppush
  | .fload bytes => .fclr :: bytes.map .fpush
  | .check => [.iscor]

/-- A line that is not of the syntax of 30_encoding.md R58 or R59. -/
inductive AsmError where
  /-- The first word is no mnemonic. -/
  | unknownMnemonic
  /-- An operand is not a number, or does not fit the operand's width. -/
  | badOperand
  /-- An operand is missing, or there is one too many. -/
  | operandCount
  deriving DecidableEq, Repr

/-- The value of a digit, in either case. -/
def digitValue (c : Char) : Option Nat :=
  if '0' ≤ c ∧ c ≤ '9' then some (c.toNat - '0'.toNat)
  else if 'a' ≤ c ∧ c ≤ 'f' then some (c.toNat - 'a'.toNat + 10)
  else if 'A' ≤ c ∧ c ≤ 'F' then some (c.toNat - 'A'.toNat + 10)
  else none

/-- Digits in a base, after the value read so far. -/
def digitsValue (base : Nat) : Nat → List Char → Option Nat
  | acc, [] => some acc
  | acc, c :: cs =>
    match digitValue c with
    | some d => if d < base then digitsValue base (acc * base + d) cs else none
    | none => none

/-- A numeric operand: `0x` and hexadecimal digits, or decimal digits (30_encoding.md R58). -/
def numberValue : List Char → Option Nat
  | [] => none
  | ['0', 'x'] => none
  | '0' :: 'x' :: cs => digitsValue 16 0 cs
  | cs => digitsValue 10 0 cs

/-- The characters before the first that satisfies `p`, and the rest from it on. -/
def breakAt (p : Char → Bool) : List Char → List Char × List Char
  | [] => ([], [])
  | c :: cs => if p c then ([], c :: cs) else (c :: (breakAt p cs).1, (breakAt p cs).2)

/-- A space or a tab. -/
def isBlank (c : Char) : Bool := c == ' ' || c == '\t'

/-- Without leading blanks. -/
def skipBlanks : List Char → List Char
  | [] => []
  | c :: cs => if isBlank c then skipBlanks cs else c :: cs

/-- The blank-separated words of a line, from the word read so far (in reverse). -/
def splitWords : List Char → List Char → List (List Char)
  | [], [] => []
  | w, [] => [w.reverse]
  | w, c :: cs =>
    if isBlank c then (if w = [] then splitWords [] cs else w.reverse :: splitWords [] cs)
    else splitWords (c :: w) cs

/-- One numeric operand of `n` bits. -/
def operandOf (n : Nat) (ws : List (List Char)) : Except AsmError (BitVec n) :=
  match ws with
  | [w] =>
    match numberValue w with
    | some v => if v < 2 ^ n then .ok (BitVec.ofNat n v) else .error .badOperand
    | none => .error .badOperand
  | _ => .error .operandCount

/-- Any number of byte operands, the `b0 b1 ... bn-1` of `PLOAD` and `FLOAD`. How such a byte is written is a DESIGN CHOICE (log
entry 14): each is a number in the form R58 gives for the four commands with an operand, `0x..` or decimal. -/
def bytesOperand : List (List Char) → Except AsmError (List Byte)
  | [] => .ok []
  | w :: ws =>
    match operandOf 8 [w], bytesOperand ws with
    | .ok b, .ok bs => .ok (b :: bs)
    | .error x, _ => .error x
    | _, .error x => .error x

/-- The bytes of a text, one per character, its ASCII code (30_encoding.md R59; log entry 13). -/
def textBytes : List Char → Except AsmError (List Byte)
  | [] => .ok []
  | c :: cs =>
    match textBytes cs with
    | .ok bs => if c.toNat < 128 then .ok (BitVec.ofNat 8 c.toNat :: bs) else .error .badOperand
    | .error x => .error x

/-- The operand of `PLOAD`: a text in double quotes, or byte operands, with a comment after either. That a `;` between the quotes is
a character of the text and starts no comment is a DESIGN CHOICE: R58 and R59 do not say which wins (log entry 15). -/
def ploadOperand (cs : List Char) : Except AsmError (List Byte) :=
  match skipBlanks cs with
  | '"' :: rest =>
    match breakAt (· == '"') rest with
    | (text, '"' :: after) =>
      match skipBlanks after with
      | [] => textBytes text
      | ';' :: _ => textBytes text
      | _ => .error .operandCount
    | _ => .error .badOperand
  | rest => bytesOperand (splitWords [] (breakAt (· == ';') rest).1)

/-- A command without an operand. -/
def plain (i : Instr) (ws : List (List Char)) : Except AsmError (List Instr) :=
  if ws = [] then .ok [i] else .error .operandCount

/-- A command with one numeric operand. -/
def withOperand (n : Nat) (mk : BitVec n → Instr) (ws : List (List Char)) : Except AsmError (List Instr) :=
  (operandOf n ws).map fun v => [mk v]

/-- The commands that one line stands for: one command, a pseudo-instruction's expansion, or none for a blank or comment line
(30_encoding.md R58, R59; the details of a line that the rules leave open: log entries 13 to 15). -/
def assembleLine (line : List Char) : Except AsmError (List Instr) :=
  let m := breakAt (fun c => isBlank c || c == ';') (skipBlanks line)
  let ws := splitWords [] (breakAt (· == ';') m.2).1
  match m.1 with
  | [] => .ok []
  | ['W', 'R', 'S', 'E', 'Q'] => withOperand 8 .wrseq ws
  | ['W', 'R', 'C', 'S', 'U', 'M'] => withOperand 16 .wrcsum ws
  | ['P', 'C', 'L', 'R'] => plain .pclr ws
  | ['P', 'P', 'U', 'S', 'H'] => withOperand 8 .ppush ws
  | ['F', 'C', 'L', 'R'] => plain .fclr ws
  | ['F', 'P', 'U', 'S', 'H'] => withOperand 8 .fpush ws
  | ['C', 'S', 'U', 'M'] => plain .csum ws
  | ['V', 'R', 'F', 'Y'] => plain .vrfy ws
  | ['E', 'N', 'C'] => plain .enc ws
  | ['H', 'S', 'E', 'Q'] => plain .hseq ws
  | ['I', 'S', 'A', 'C', 'K'] => plain .isack ws
  | ['P', 'L', 'D'] => plain .pld ws
  | ['I', 'S', 'C', 'O', 'R'] => plain .iscor ws
  | ['M', 'K', 'P', 'K', 'T'] => plain .mkpkt ws
  | ['M', 'K', 'A', 'C', 'K'] => plain .mkack ws
  | ['P', 'L', 'O', 'A', 'D'] => (ploadOperand m.2).map fun bs => (Pseudo.pload bs).expand
  | ['F', 'L', 'O', 'A', 'D'] => (bytesOperand ws).map fun bs => (Pseudo.fload bs).expand
  | ['C', 'H', 'E', 'C', 'K'] => if ws = [] then .ok Pseudo.check.expand else .error .operandCount
  | _ => .error .unknownMnemonic

end Sys2Proof.Machine
end

