-- ==== Sys2Proof/Machine/Engine.lean ====
section
/-! DEFINITION. Level E: the byte-serial checksum engine (40_checksum_codec.md R69 to R72, 41_packet_framer.md R88). Its state
is hidden and dead between commands (10_state.md R30), so it is no part of State (log entry 9). -/

namespace Sys2Proof.Machine

/-- The engine's working state (10_state.md R30). -/
structure Engine where
  /-- `ACC`, 0..65534. -/
  acc : Half
  /-- `HOLD`, the byte waiting for its partner. -/
  hold : Byte
  /-- `PH`: a byte waits in `HOLD`. -/
  ph : Bool
  /-- `STOR`, the stored checksum picked out of a frame. -/
  stor : Half
  deriving DecidableEq, Repr

/-- Engine start: `ACC <- 0; PH <- 0`; `HOLD` keeps what it holds (40_checksum_codec.md R69). -/
def Engine.start (e : Engine) : Engine := { e with acc := 0#16, ph := false }

/-- Engine absorb of one byte (40_checksum_codec.md R70). -/
def Engine.absorb (e : Engine) (b : Byte) : Engine :=
  if e.ph then { e with acc := addmod e.acc (word e.hold b), ph := false }
  else { e with hold := b, ph := true }

/-- Absorb bytes in order. -/
def Engine.absorbAll : Engine → List Byte → Engine
  | e, [] => e
  | e, b :: bs => Engine.absorbAll (e.absorb b) bs

/-- Engine finish: an odd byte becomes the high byte of a last word (40_checksum_codec.md R71). -/
def Engine.finish (e : Engine) : Engine :=
  if e.ph then { e with acc := addmod e.acc (word e.hold 0#8), ph := false } else e

/-- The engine's run over `[seq] ‖ payload` (40_checksum_codec.md R72); `S` is its `ACC`. -/
def Engine.sum (e : Engine) (seq : Byte) (payload : List Byte) : Engine :=
  ((e.start.absorb seq).absorbAll payload).finish

/-- The engine's run over a frame: bytes 1 and 2 go to `STOR` and are not absorbed (41_packet_framer.md R88). A runt is never
given to the engine; it leaves the engine as it is. -/
def Engine.sumFrame (e : Engine) (raw : List Byte) : Engine :=
  match raw with
  | s :: h :: l :: p => ({ e.start.absorb s with stor := word h l }.absorbAll p).finish
  | _ => e

/-- The engine's answer for a frame of 3 bytes or more: `S + STOR != 65535` (41_packet_framer.md R88). -/
def Engine.frameCorrupted (e : Engine) (raw : List Byte) : Bool :=
  let f := e.sumFrame raw
  f.acc.toNat + f.stor.toNat != 65535

end Sys2Proof.Machine
end

