-- ==== Sys2Proof/Machine/HostPort.lean ====
section
/-! DEFINITION. What the host can read between steps (10_state.md R31). A read has no side effect, so each is a plain function
of the state; a byte at or past the length is refused (93_implementation_defined.md U1). -/

namespace Sys2Proof.Machine

/-- The host's read of `PBUF[i]`. -/
def State.hostReadPayload (s : State) (i : Nat) : Option Byte :=
  if i < s.plen then s.pbuf.read i else none

/-- The host's read of `FBUF[i]`. -/
def State.hostReadFrame (s : State) (i : Nat) : Option Byte :=
  if i < s.flen then s.fbuf.read i else none

/-- Everything the host can read (10_state.md R31). -/
structure Observation where
  seq : Byte
  csum : Half
  res : Bool
  runt : Bool
  fault : BitVec 2
  fcmd : CmdWord
  plen : Nat
  flen : Nat
  payload : List (Option Byte)
  frame : List (Option Byte)
  deriving DecidableEq, Repr

/-- What the host reads in a state. -/
def State.observe (s : State) : Observation where
  seq := s.seq
  csum := s.csum
  res := s.res
  runt := s.runt
  fault := s.fault.code
  fcmd := s.fcmd
  plen := s.plen
  flen := s.flen
  payload := (List.range s.plen).map s.hostReadPayload
  frame := (List.range s.flen).map s.hostReadFrame

end Sys2Proof.Machine
end

