-- ==== Sys2Proof/Safety.lean ====
section
/-! DEFINITION. What counts as a safe state and as a run that ended normally. -/

namespace Sys2Proof.Machine

/-- Both buffers hold a byte at exactly the offsets below their length, each length is within capacity (10_state.md R26, R27, R31),
and the configuration is valid (70_reset_and_hazards.md R119). -/
structure State.Bounded (s : State) : Prop where
  payloadCovered : s.pbuf.covers s.plen
  frameCovered : s.fbuf.covers s.flen
  plenBound : s.plen ≤ s.config.maxPayload
  flenBound : s.flen ≤ s.config.maxFrame
  configValid : s.config.Valid

/-- `FAULT` and `FCMD` tell the cause of the first fault, which the halted state still shows (10_state.md R24,
60_exceptions.md R101, R109). -/
def State.FaultExplained (s : State) : Prop :=
  match s.fault with
  | .none => s.fcmd = 0#32
  | .illegal => ∃ x, decode s.fcmd = .error x
  | .oversize =>
    (∃ b, s.fcmd = encode (.ppush b) ∧ s.plen = s.config.maxPayload) ∨
      (∃ b, s.fcmd = encode (.fpush b) ∧ s.flen = s.config.maxFrame)
  | .badseq =>
    1 < s.seq.toNat ∧ (s.fcmd = encode .enc ∨ s.fcmd = encode .mkpkt ∨ s.fcmd = encode .mkack)

/-- The invariant of the machine. -/
structure State.Inv (s : State) : Prop where
  bounded : s.Bounded
  explained : s.FaultExplained

/-- A run that ended in this state ended normally (70_reset_and_hazards.md R129). -/
abbrev State.EndedNormally (s : State) : Prop := s.fault = .none

end Sys2Proof.Machine
end

