-- ==== Sys2Proof/Certificates/Slice0/Obligations.lean ====
section
/-! DEFINITION. The statements for the provers. Each docstring names the rule of spec/ it formalises. -/

open Sys2Proof Sys2Proof.Machine

/-! ## Encoding -/

/-- Decoding the word of a command gives the command back, at every operand (30_encoding.md R53 to R55). -/
def Obligations.DecodeInvertsEncode : Prop :=
  ∀ i : Instr, i.WellFormed → decode (encode i) = .ok i

/-- A word that decodes is the word of the command it decodes to; in particular no word decodes to a frame pattern
(30_encoding.md R53, R54). -/
def Obligations.DecodedWordIsItsEncoding : Prop :=
  ∀ (cw : CmdWord) (i : Instr), decode cw = .ok i → i.WellFormed ∧ encode i = cw

/-- 30_encoding.md R54: `cw` is a command exactly when `(cw & mask) = match`, with its operand from `IMM`. -/
def Obligations.MaskAndMatchSelectTheCommand : Prop :=
  ∀ cw : CmdWord,
    (∀ b, decode cw = .ok (.wrseq b) ↔ cw &&& 0xFFFFFF00#32 = 0x01000000#32 ∧ b = cw.extractLsb' 0 8) ∧
    (∀ c, decode cw = .ok (.wrcsum c) ↔ cw &&& 0xFFFF0000#32 = 0x02000000#32 ∧ c = cw.extractLsb' 0 16) ∧
    (decode cw = .ok .pclr ↔ cw &&& 0xFFFFFFFF#32 = 0x03000000#32) ∧
    (∀ b, decode cw = .ok (.ppush b) ↔ cw &&& 0xFFFFFF00#32 = 0x04000000#32 ∧ b = cw.extractLsb' 0 8) ∧
    (decode cw = .ok .fclr ↔ cw &&& 0xFFFFFFFF#32 = 0x05000000#32) ∧
    (∀ b, decode cw = .ok (.fpush b) ↔ cw &&& 0xFFFFFF00#32 = 0x06000000#32 ∧ b = cw.extractLsb' 0 8) ∧
    (decode cw = .ok .csum ↔ cw &&& 0xFFFFFFFF#32 = 0x10000000#32) ∧
    (decode cw = .ok .vrfy ↔ cw &&& 0xFFFFFFFF#32 = 0x11000000#32) ∧
    (decode cw = .ok .enc ↔ cw &&& 0xFFFFFFFF#32 = 0x20000000#32) ∧
    (decode cw = .ok .hseq ↔ cw &&& 0xFFFFFFFF#32 = 0x21000000#32) ∧
    (decode cw = .ok .isack ↔ cw &&& 0xFFFFFFFF#32 = 0x22000000#32) ∧
    (decode cw = .ok .pld ↔ cw &&& 0xFFFFFFFF#32 = 0x23000000#32) ∧
    (decode cw = .ok .iscor ↔ cw &&& 0xFFFFFFFF#32 = 0x24000000#32) ∧
    (decode cw = .ok .mkpkt ↔ cw &&& 0xFFFFFFFF#32 = 0x30000000#32) ∧
    (decode cw = .ok .mkack ↔ cw &&& 0xFFFFFFFF#32 = 0x31000000#32)

/-- 60_exceptions.md R103: which words do not decode, that the step on one in a running block raises `ILLEGAL`, that the step
on any other word does not, and that the code of `ILLEGAL` is 1. -/
def Obligations.IllegalWordsRaiseIllegal : Prop :=
  let noOperand : List Byte := [0x03#8, 0x05#8, 0x10#8, 0x11#8, 0x20#8, 0x21#8, 0x22#8, 0x23#8, 0x24#8, 0x30#8, 0x31#8]
  let imm8Codes : List Byte := [0x01#8, 0x04#8, 0x06#8]
  let Malformed : CmdWord → Prop := fun cw =>
    opField cw ∉ 0x02#8 :: (imm8Codes ++ noOperand) ∨ rsvField cw ≠ 0#8 ∨
      (opField cw ∈ noOperand ∧ immField cw ≠ 0#16) ∨ (opField cw ∈ imm8Codes ∧ cw.extractLsb' 8 8 ≠ 0#8)
  FaultCode.illegal.code = 1#2 ∧
    (∀ cw : CmdWord, (∃ x, decode cw = .error x) ↔ Malformed cw) ∧
    ∀ (s : State) (cw : CmdWord) (rest : List HostAction), s.fault = .none → s.pending = .command cw :: rest →
      (Malformed cw → step s = .next { s with pending := rest, fault := .illegal, fcmd := cw }) ∧
      (¬ Malformed cw → ∀ t, step s = .next t → t.fault ≠ .illegal)

/-- Words written out in 95_test_vectors.md, one of each command, decode to the commands they stand for. -/
def Obligations.SpecWordsDecode : Prop :=
  decode 0x01000001#32 = .ok (.wrseq 0x01#8) ∧ decode 0x02002DBC#32 = .ok (.wrcsum 0x2DBC#16) ∧
  decode 0x03000000#32 = .ok .pclr ∧ decode 0x04000068#32 = .ok (.ppush 0x68#8) ∧ decode 0x05000000#32 = .ok .fclr ∧
  decode 0x060000FF#32 = .ok (.fpush 0xFF#8) ∧ decode 0x10000000#32 = .ok .csum ∧ decode 0x11000000#32 = .ok .vrfy ∧
  decode 0x20000000#32 = .ok .enc ∧ decode 0x21000000#32 = .ok .hseq ∧ decode 0x22000000#32 = .ok .isack ∧
  decode 0x23000000#32 = .ok .pld ∧ decode 0x24000000#32 = .ok .iscor ∧ decode 0x30000000#32 = .ok .mkpkt ∧
  decode 0x31000000#32 = .ok .mkack

/-- The wire bytes of a frame row are recognised as that row, at every tag bit and checksum (30_encoding.md R48, R52). -/
def Obligations.FramePatternsAreRecognised : Prop :=
  ∀ (i : Instr) (bytes : List Byte), wireBytes i = some bytes → decodeFrame bytes = .ok i

/-- The model's choice (log entry 8): a frame row of the opcode table, offered to a running block as a command word, is an
illegal word, which raises `ILLEGAL` and records the word. -/
def Obligations.FrameRowsRaiseIllegal : Prop :=
  ∀ s : State, s.fault = .none →
    (∀ tag c, exec (.frameData tag c) s = .next { s with fault := .illegal, fcmd := BitVec.ofNat 32 (tag.toNat * 65536 + c.toNat) }) ∧
    exec .frameAck0 s = .next { s with fault := .illegal, fcmd := 0x7341434B#32 } ∧
    exec .frameAck1 s = .next { s with fault := .illegal, fcmd := 0x7341434B#32 } ∧
    ∀ i, i.format = .frame → ∃ x, decode (encode i) = .error x

/-! ## The step, faults, the halted state and reset -/

/-- 10_state.md R17: a step takes one command word and is the rule of the command it decodes to; the word is used up
(`pending` is the model's own, log entry 1). -/
def Obligations.StepRunsDecodedCommand : Prop :=
  ∀ (s : State) (cw : CmdWord) (rest : List HostAction) (i : Instr),
    s.pending = .command cw :: rest → decode cw = .ok i → step s = exec i { s with pending := rest }

/-- The model's choice (log entry 2): with nothing pending the step leaves the state as it is. -/
def Obligations.IdleBlockStays : Prop :=
  ∀ s : State, s.pending = [] → step s = .next s

/-- 60_exceptions.md R109: while halted, every command, and every step on a command word, legal or not, leaves the whole
state unchanged, and the host reads the same as before. That the word leaves the host's list is the model's (log entry 1). -/
def Obligations.HaltedBlockIgnoresCommands : Prop :=
  ∀ s : State, s.fault ≠ .none →
    (∀ i, exec i s = .next s) ∧
    ∀ (cw : CmdWord) (rest : List HostAction), s.pending = .command cw :: rest →
      step s = .next { s with pending := rest } ∧ ({ s with pending := rest } : State).observe = s.observe

/-- 70_reset_and_hazards.md R116 and 60_exceptions.md R110: reset in any state, the halted one included, gives the reset state,
`MAX_FRAME` staying as it is (the host's own list of what it has yet to give stays, log entry 3), and nothing else leaves the halted
state. -/
def Obligations.OnlyResetLeavesTheHaltedState : Prop :=
  (∀ (s : State) (rest : List HostAction), s.pending = .reset :: rest →
    step s = .next { State.resetWith s.config with pending := rest }) ∧
  ∀ s t : State, s.fault ≠ .none → step s = .next t → t.fault = .none → ∃ rest, s.pending = .reset :: rest

/-- 10_state.md R32: the state after reset, in every configuration, with no byte of either buffer readable (an unreadable byte has
no value in the model, log entry 4). -/
def Obligations.ResetStateValues : Prop :=
  (∃ c, State.reset = State.resetWith c) ∧
  ∀ (c : Config) (s : State), s = State.resetWith c →
    s.seq = 0x00#8 ∧ s.csum = 0x0000#16 ∧ s.res = false ∧ s.runt = false ∧ s.fault.code = 0#2 ∧ s.fcmd = 0x00000000#32 ∧
    s.plen = 0 ∧ s.flen = 0 ∧
    ∀ i, s.pbuf.read i = none ∧ s.fbuf.read i = none ∧ s.hostReadPayload i = none ∧ s.hostReadFrame i = none

/-- 60_exceptions.md R102: a step on a command word that takes a fault writes the fault's code and the word that was issued and
nothing else, and no command after it has an effect. -/
def Obligations.FaultsArePrecise : Prop :=
  ∀ (s t : State) (cw : CmdWord) (rest : List HostAction), s.fault = .none → s.pending = .command cw :: rest →
    step s = .next t → t.fault ≠ .none →
      t = { s with pending := rest, fault := t.fault, fcmd := cw } ∧
      ∀ (cws : List CmdWord), runWords cws t = .next t

/-- 60_exceptions.md R106: halted comes before decoding, decoding before the command's own check; a step that takes a fault
produces no data result. -/
def Obligations.FaultPriority : Prop :=
  ∀ (s : State) (cw : CmdWord) (rest : List HostAction), s.pending = .command cw :: rest →
    (s.fault ≠ .none → step s = .next { s with pending := rest }) ∧
    (s.fault = .none → ∀ x, decode cw = .error x → step s = .next { s with pending := rest, fault := .illegal, fcmd := cw }) ∧
    (s.fault = .none → ∀ i t, decode cw = .ok i → step s = .next t → t.fault ≠ .illegal ∧
      (t.fault = .badseq → i = .enc ∨ i = .mkpkt ∨ i = .mkack) ∧
      (t.fault = .oversize → (∃ b, i = .ppush b) ∨ ∃ b, i = .fpush b)) ∧
    ∀ t, step s = .next t → t.fault ≠ .none → t.res = s.res ∧ t.runt = s.runt

/-- 70_reset_and_hazards.md R129: a run over any command words ends, normally or faulted; a faulted run ends in the state the
first command that faults left, all before it having completed without a fault. -/
def Obligations.RunsEndAtTheFirstFault : Prop :=
  ∀ (cws : List CmdWord) (s : State), s.Inv → s.fault = .none →
    ∃ t, runWords cws s = .next t ∧ t.Inv ∧
      (t.fault ≠ .none → ∃ before cw later u, cws = before ++ cw :: later ∧ runWords before s = .next u ∧ u.fault = .none ∧
        issueWord cw u = .next t ∧ t = { u with fault := t.fault, fcmd := cw })

/-- 60_exceptions.md R101, R104, R105: the complete list of faults with their codes, who raises each, when, and what `FCMD`
records: 0 while no fault was taken since reset. -/
def Obligations.FaultCausesAreComplete : Prop :=
  FaultCode.none.code = 0#2 ∧ FaultCode.illegal.code = 1#2 ∧ FaultCode.oversize.code = 2#2 ∧ FaultCode.badseq.code = 3#2 ∧
  (∀ c, (State.resetWith c).fault = .none ∧ (State.resetWith c).fcmd = 0x00000000#32) ∧
  ∀ (s t : State) (cw : CmdWord) (rest : List HostAction), s.fault = .none → s.pending = .command cw :: rest →
    step s = .next t →
      (t.fault = .illegal ↔ ∃ x, decode cw = .error x) ∧
      (t.fault = .oversize ↔
        (∃ b, decode cw = .ok (.ppush b)) ∧ s.plen = s.config.maxPayload ∨
        (∃ b, decode cw = .ok (.fpush b)) ∧ s.flen = s.config.maxFrame) ∧
      (t.fault = .badseq ↔
        (decode cw = .ok .enc ∨ decode cw = .ok .mkpkt ∨ decode cw = .ok .mkack) ∧ 1 < s.seq.toNat) ∧
      (t.fault ≠ .none → t = { s with pending := rest, fault := t.fault, fcmd := cw }) ∧ (t.fault = .none → t.fcmd = s.fcmd)

/-- 60_exceptions.md R99: a frame-examining command never takes a fault, whatever the frame holds, and a corrupted frame and a
runt are reported in the flags. -/
def Obligations.DataResultsAreNoFaults : Prop :=
  ∀ s t : State, s.fault = .none →
    (∀ i ∈ [Instr.hseq, .isack, .pld, .iscor, .vrfy, .csum], exec i s = .next t → t.fault = .none ∧ t.fcmd = s.fcmd) ∧
    (exec .iscor s = .next t → s.flen < 3 → t.res = true ∧ t.runt = true) ∧
    ∀ f, s.frame = some f → exec .iscor s = .next t → isCorrupted f = true → t.res = true

/-- The reset state of every valid configuration meets the invariant: a valid configuration, lengths within capacity, a byte at
exactly the offsets below each length, and `FAULT` with `FCMD` telling the cause of the first fault. -/
def Obligations.ResetMeetsInvariant : Prop := State.reset.Inv ∧ ∀ c : Config, c.Valid → (State.resetWith c).Inv

/-- Every step keeps the invariant (10_state.md R24, R26, R27, R31; 60_exceptions.md R101, R109, R111). -/
def Obligations.StepKeepsInvariant : Prop :=
  ∀ s t : State, s.Inv → step s = .next t → t.Inv

/-- From every state that meets the invariant every step and every instruction completes: no command stops the machine
(70_reset_and_hazards.md R128: "every command terminates"). -/
def Obligations.EveryStepCompletes : Prop :=
  ∀ s : State, s.Inv → (∃ t, step s = .next t) ∧ ∀ i, ∃ t, exec i s = .next t

/-! ## Configuration -/

/-- 70_reset_and_hazards.md R119 and 00_scope.md R11 (with R5 to R7): the default configuration is valid, and in every valid one an
ACK frame fits, and `LEN_W` is the smallest width that holds every length up to `MAX_FRAME`, so that a length register stores each
of them as it is. That `State.reset` is the block of the default configuration is the model's choice (log entry 6). -/
def Obligations.ConfigurationFits : Prop :=
  headerLen = 3 ∧ Config.default.Valid ∧ Config.default.maxFrame = 1500 ∧ Config.default.maxPayload = 1497 ∧
  Config.default.lenW = 11 ∧ State.reset = State.resetWith Config.default ∧
  ∀ c : Config, 6 ≤ c.maxFrame →
    c.maxPayload + headerLen = c.maxFrame ∧ headerLen + ackMarker.length ≤ c.maxFrame ∧
    c.lenW = Nat.clog 2 (c.maxFrame + 1) ∧ (∀ n, n ≤ c.maxFrame → n < 2 ^ c.lenW ∧ c.toLen n = n) ∧
    ∀ w, (∀ n, n ≤ c.maxFrame → n < 2 ^ w) → c.lenW ≤ w

/-! ## Operand-loading commands -/

/-- 42_operand_commands.md R89: `WRSEQ`'s word, effect, and malformed words. -/
def Obligations.WrseqLoadsTheTag : Prop :=
  (∀ b : Byte, encode (.wrseq b) = 0x01000000#32 ||| b.setWidth 32) ∧
  (∀ (s : State) (b : Byte), s.fault = .none → exec (.wrseq b) s = .next { s with seq := b }) ∧
  (∀ cw : CmdWord, opField cw = 0x01#8 → (rsvField cw ≠ 0#8 ∨ cw.extractLsb' 8 8 ≠ 0#8) → ∃ x, decode cw = .error x)

/-- 42_operand_commands.md R90: `WRCSUM`'s word, effect, and malformed words. -/
def Obligations.WrcsumLoadsTheChecksum : Prop :=
  (∀ c : Half, encode (.wrcsum c) = 0x02000000#32 ||| c.setWidth 32) ∧
  (∀ (s : State) (c : Half), s.fault = .none → exec (.wrcsum c) s = .next { s with csum := c }) ∧
  (∀ cw : CmdWord, opField cw = 0x02#8 → ((∃ x, decode cw = .error x) ↔ rsvField cw ≠ 0#8))

/-- 42_operand_commands.md R91: `PCLR` empties the payload buffer, whose bytes become unreadable (no value, log entry 4). -/
def Obligations.PclrEmptiesThePayload : Prop :=
  encode .pclr = 0x03000000#32 ∧
  ∀ s : State, s.fault = .none → ∃ t, exec .pclr s = .next t ∧ t = { s with plen := 0, pbuf := t.pbuf } ∧
    t.payload = some [] ∧ ∀ a, t.pbuf.read a = none ∧ t.hostReadPayload a = none

/-- 42_operand_commands.md R92: `PPUSH` appends one byte at `PLEN`, changing no other byte, or raises `OVERSIZE` when the buffer
is full; with `PLEN = MAX_PAYLOAD - 1` the push succeeds and the next one faults. -/
def Obligations.PpushAppendsOrFaults : Prop :=
  ∀ (s : State) (b : Byte), s.fault = .none →
    encode (.ppush b) = 0x04000000#32 ||| b.setWidth 32 ∧
    (s.plen = s.config.maxPayload → exec (.ppush b) s = .next { s with fault := .oversize, fcmd := encode (.ppush b) }) ∧
    (s.plen < s.config.maxPayload → ∃ t, exec (.ppush b) s = .next t ∧
      t = { s with plen := s.plen + 1, pbuf := t.pbuf } ∧
      t.pbuf.read s.plen = some b ∧ (∀ a, a ≠ s.plen → t.pbuf.read a = s.pbuf.read a) ∧
      (∀ p, s.payload = some p → t.payload = some (p ++ [b])) ∧
      (s.plen + 1 = s.config.maxPayload → ∀ b', exec (.ppush b') t = .next (t.raise .oversize (encode (.ppush b')))))

/-- 42_operand_commands.md R93: `FCLR` empties the frame buffer, whose bytes become unreadable (no value, log entry 4), and
leaves `RUNT`. -/
def Obligations.FclrEmptiesTheFrame : Prop :=
  encode .fclr = 0x05000000#32 ∧
  ∀ s : State, s.fault = .none → ∃ t, exec .fclr s = .next t ∧ t = { s with flen := 0, fbuf := t.fbuf } ∧
    t.frame = some [] ∧ ∀ a, t.fbuf.read a = none ∧ t.hostReadFrame a = none

/-- 42_operand_commands.md R94: `FPUSH` appends one byte at `FLEN`, changing no other byte, or raises `OVERSIZE` when the buffer
is full. -/
def Obligations.FpushAppendsOrFaults : Prop :=
  ∀ (s : State) (b : Byte), s.fault = .none →
    encode (.fpush b) = 0x06000000#32 ||| b.setWidth 32 ∧
    (s.flen = s.config.maxFrame → exec (.fpush b) s = .next { s with fault := .oversize, fcmd := encode (.fpush b) }) ∧
    (s.flen < s.config.maxFrame → ∃ t, exec (.fpush b) s = .next t ∧
      t = { s with flen := s.flen + 1, fbuf := t.fbuf } ∧
      t.fbuf.read s.flen = some b ∧ (∀ a, a ≠ s.flen → t.fbuf.read a = s.fbuf.read a) ∧
      (∀ f, s.frame = some f → t.frame = some (f ++ [b])) ∧
      (s.flen + 1 = s.config.maxFrame → ∀ b', exec (.fpush b') t = .next (t.raise .oversize (encode (.fpush b')))))

/-! ## The checksum codec -/

/-- 40_checksum_codec.md R61: the words of a byte sequence, read big-endian two at a time, a last odd byte being the high byte of
a word whose low byte is 0. -/
def Obligations.WordsReadTheBytesBigEndian : Prop :=
  words [] = [] ∧
  ∀ bs : List Byte, (words bs).length = (bs.length + 1) / 2 ∧
    ∀ k, k < (words bs).length →
      ((words bs)[k]?).map BitVec.toNat = some ((bs.getD (2 * k) 0#8).toNat * 256 + (bs.getD (2 * k + 1) 0#8).toNat)

/-- 40_checksum_codec.md R62: `sum16` is the sum of the words modulo 65535, in 0..65534, 0 for the empty sequence; reducing
after every addition gives the same; the end-around-carry sum differs from it exactly when the unreduced sum is a non-zero
multiple of 65535, and is 0xFFFF then. -/
def Obligations.SumIsModulo65535 : Prop :=
  sum16 [] = 0 ∧
  ∀ bs : List Byte, sum16 bs = ((words bs).map BitVec.toNat).sum % 65535 ∧ sum16 bs < 65535 ∧
    (words bs).foldl (fun a w => (a + w.toNat) % 65535) 0 = sum16 bs ∧
    let endAround := (words bs).foldl (fun a w => if a + w.toNat < 65536 then a + w.toNat else a + w.toNat - 65535) 0
    (endAround ≠ sum16 bs ↔ wordSum (words bs) ≠ 0 ∧ wordSum (words bs) % 65535 = 0) ∧
    (endAround ≠ sum16 bs → endAround = 0xFFFF ∧ sum16 bs = 0x0000)

/-- 40_checksum_codec.md R63: `checksum` is `65535 - sum16`, the bitwise complement of the 16-bit sum, and its first word is made
of the sequence byte and the first payload byte. -/
def Obligations.ChecksumIsTheComplement : Prop :=
  ∀ (seq : Byte) (p : List Byte),
    (checksum seq p).toNat = 65535 - sum16 (seq :: p) ∧ checksum seq p = ~~~(BitVec.ofNat 16 (sum16 (seq :: p))) ∧
    1 ≤ (checksum seq p).toNat ∧ (words (seq :: p)).head? = some (word seq (p.headD 0#8))

/-- 40_checksum_codec.md R66: ranges; 0x0000 never verifies, 0xFFFF is the checksum exactly when the unreduced sum is a multiple
of 65535, and the spec's instances. -/
def Obligations.ChecksumIsNeverZero : Prop :=
  (∀ (seq : Byte) (p : List Byte),
    sum16 (seq :: p) ≤ 65534 ∧ checksum seq p ≠ 0x0000#16 ∧ verify seq p 0x0000#16 = false ∧
    (checksum seq p = 0xFFFF#16 ↔ sum16 (seq :: p) = 0) ∧
    (sum16 (seq :: p) = 0 ↔ 65535 ∣ wordSum (words (seq :: p)))) ∧
  (∀ ws vs : List Half, wordSum (ws ++ 0xFFFF#16 :: vs) % 65535 = wordSum (ws ++ 0x0000#16 :: vs) % 65535) ∧
  (∀ n, checksum 0x00#8 (List.replicate n 0x00#8) = 0xFFFF#16) ∧ checksum 0x00#8 [0xFF#8, 0xFF#8, 0x00#8] = 0xFFFF#16

/-- 40_checksum_codec.md R67: `verify` is true exactly of the checksum. -/
def Obligations.VerifyAcceptsExactlyTheChecksum : Prop :=
  ∀ (seq : Byte) (p : List Byte) (c : Half), verify seq p c = true ↔ c = checksum seq p

/-- 40_checksum_codec.md R68: one conditional subtraction reduces the sum of an accumulator below 65535 and a word, and it is
"drop bit 16 and add 1" when bit 16 is set and "0xFFFF becomes 0x0000" at 65535 exactly; adding the words of a byte sequence so
gives its `sum16`. -/
def Obligations.AddmodReducesOnce : Prop :=
  (∀ bs : List Byte, ((words bs).foldl addmod 0x0000#16).toNat = sum16 bs) ∧
  ∀ a w : Half, a.toNat ≤ 65534 →
    (addmod a w).toNat = (a.toNat + w.toNat) % 65535 ∧ (addmod a w).toNat ≤ 65534 ∧
    (65536 ≤ a.toNat + w.toNat → addmod a w = a + w + 1#16) ∧
    (a.toNat + w.toNat = 65535 → a + w = 0xFFFF#16 ∧ addmod a w = 0x0000#16) ∧
    (a.toNat + w.toNat < 65535 → addmod a w = a + w)

/-- 40_checksum_codec.md R73: `CSUM`, for every readable payload; its values for the empty payload and the spec's example. -/
def Obligations.CsumComputesTheChecksum : Prop :=
  encode .csum = 0x10000000#32 ∧
  (∀ (s : State) (p : List Byte), s.fault = .none → s.payload = some p →
    exec .csum s = .next { s with csum := checksum s.seq p }) ∧
  checksum 0x00#8 [] = 0xFFFF#16 ∧ checksum 0x01#8 [] = 0xFEFF#16 ∧
  checksum 0x00#8 [0x68#8, 0x65#8, 0x6C#8, 0x6C#8, 0x6F#8] = 0x2DBC#16

/-- 40_checksum_codec.md R74 and R64: `VRFY`, for every readable payload, the test being on plain numbers, with the spec's
instances. -/
def Obligations.VrfyTestsTheChecksum : Prop :=
  encode .vrfy = 0x11000000#32 ∧
  (verify 0x00#8 [] 0xFFFF#16 = true ∧ verify 0x00#8 [0x68#8, 0x65#8, 0x6C#8, 0x6C#8, 0x6F#8] 0x2DBC#16 = true ∧
    verify 0x00#8 [0x68#8, 0x65#8, 0x6C#8, 0x6C#8, 0x6F#8] 0x2DBD#16 = false) ∧
  (∀ (seq : Byte) (p : List Byte) (c : Half), verify seq p c = decide (sum16 (seq :: p) + c.toNat = 65535)) ∧
  (∀ (s : State) (p : List Byte), s.fault = .none → s.payload = some p →
    exec .vrfy s = .next { s with res := verify s.seq p s.csum }) ∧
  ∀ (s t : State), s.fault = .none → exec .vrfy s = .next t → s.csum = 0x0000#16 → t.res = false

/-- 40_checksum_codec.md R72 (with R69, R70, R71): the byte-serial engine, from any earlier engine state, computes `sum16`, hence
`checksum` and `verify`. -/
def Obligations.EngineComputesTheSum : Prop :=
  ∀ (e : Engine) (seq : Byte) (p : List Byte),
    (e.sum seq p).acc.toNat = sum16 (seq :: p) ∧ (e.sum seq p).ph = false ∧
    checksum seq p = 0xFFFF#16 - (e.sum seq p).acc ∧
    ∀ c : Half, verify seq p c = decide ((e.sum seq p).acc.toNat + c.toNat = 65535)

/-- 41_packet_framer.md R88: the engine that skips bytes 1 and 2 decides `is_corrupted` for every frame of 3 bytes or more. -/
def Obligations.EngineDecidesCorruption : Prop :=
  ∀ (e : Engine) (raw : List Byte), 3 ≤ raw.length → e.frameCorrupted raw = isCorrupted raw

/-! ## The packet framer -/

/-- 41_packet_framer.md R82: the round trips of the framer's functions. -/
def Obligations.FramerRoundTrips : Prop :=
  (∀ (seq s : Byte) (p : List Byte) (c : Half),
    (hasSeq s (encodeFrame seq p c) = true ↔ s = seq) ∧ payloadOf (encodeFrame seq p c) = p ∧
    (∃ h l, (encodeFrame seq p c)[1]? = some h ∧ (encodeFrame seq p c)[2]? = some l ∧ word h l = c) ∧
    (isCorrupted (encodeFrame seq p c) = true ↔ c ≠ checksum seq p) ∧
    (isAck (encodeFrame seq p c) s = true ↔ s = seq ∧ p = ackMarker) ∧
    isCorrupted (encodeFrame seq p (checksum seq p)) = false) ∧
  ∀ raw : List Byte, 3 ≤ raw.length →
    raw = encodeFrame (raw.getD 0 0#8) (payloadOf raw) (word (raw.getD 1 0#8) (raw.getD 2 0#8))

/-- 41_packet_framer.md R77: `is_ack` compares the whole payload, and so looks at the length and at four bytes; a payload that
merely begins with the marker is not it. -/
def Obligations.IsAckExaminesTheWholePayload : Prop :=
  ∀ (raw : List Byte) (seq : Byte), 3 ≤ raw.length →
    (isAck raw seq = true ↔ hasSeq seq raw = true ∧ raw.drop 3 = ackMarker) ∧
    (isAck raw seq = true ↔ raw.length = 6 ∧ raw[0]? = some seq ∧ raw[3]? = some 0x41#8 ∧ raw[4]? = some 0x43#8 ∧
      raw[5]? = some 0x4B#8)

/-- 41_packet_framer.md R81: the two formulations of the validity check agree on every frame of 3 bytes or more. -/
def Obligations.CorruptedIsNotVerified : Prop :=
  ∀ (b0 b1 b2 : Byte) (p : List Byte), isCorrupted (b0 :: b1 :: b2 :: p) = !verify b0 p (word b1 b2)

/-- 41_packet_framer.md R80: the functions' answers for a runt. -/
def Obligations.RuntFramesAreCorrupted : Prop :=
  ∀ raw : List Byte, raw.length < 3 →
    isCorrupted raw = true ∧ (∀ s, hasSeq s raw = false) ∧ (∀ s, isAck raw s = false) ∧ payloadOf raw = []

/-- 30_encoding.md R52: the two ACK frames a correct transmitter can produce. -/
def Obligations.ExactlyTwoAckFrames : Prop :=
  encodeFrame 0x00#8 ackMarker (checksum 0x00#8 ackMarker) = [0x00#8, 0xBC#8, 0x73#8, 0x41#8, 0x43#8, 0x4B#8] ∧
  encodeFrame 0x01#8 ackMarker (checksum 0x01#8 ackMarker) = [0x01#8, 0xBB#8, 0x73#8, 0x41#8, 0x43#8, 0x4B#8] ∧
  ∀ (seq : Byte) (raw : List Byte), seq.toNat ≤ 1 → isAck raw seq = true → isCorrupted raw = false →
    raw = [0x00#8, 0xBC#8, 0x73#8, 0x41#8, 0x43#8, 0x4B#8] ∨ raw = [0x01#8, 0xBB#8, 0x73#8, 0x41#8, 0x43#8, 0x4B#8]

/-- 41_packet_framer.md R83: `ENC` builds the frame of the loaded operands in `FBUF`, or raises `BADSEQ`; bytes past the new
length become unspecified, which in the model is no value (10_state.md R31; log entry 4). -/
def Obligations.EncBuildsTheFrame : Prop :=
  encode .enc = 0x20000000#32 ∧
  ∀ s : State, s.fault = .none →
    (1 < s.seq.toNat → exec .enc s = .next { s with fault := .badseq, fcmd := 0x20000000#32 }) ∧
    ∀ p, s.config.Valid → s.seq.toNat ≤ 1 → s.payload = some p → s.plen ≤ s.config.maxPayload →
      ∃ t, exec .enc s = .next t ∧ t = { s with flen := t.flen, fbuf := t.fbuf } ∧ t.flen = s.plen + 3 ∧
        t.frame = some (encodeFrame s.seq p s.csum) ∧ t.fbuf.read 0 = some s.seq ∧ t.fbuf.read 1 = some (hi8 s.csum) ∧
        t.fbuf.read 2 = some (lo8 s.csum) ∧ (∀ i, i < s.plen → t.fbuf.read (3 + i) = s.pbuf.read i) ∧
        ∀ a, s.plen + 3 ≤ a → t.fbuf.read a = none

/-- 41_packet_framer.md R84: `HSEQ`, on a runt and on a frame of 3 bytes or more. -/
def Obligations.HseqComparesTheTag : Prop :=
  encode .hseq = 0x21000000#32 ∧
  ∀ s : State, s.fault = .none →
    (s.flen < 3 → exec .hseq s = .next { s with runt := true, res := false }) ∧
    ∀ f, s.frame = some f → 3 ≤ s.flen →
      exec .hseq s = .next { s with runt := false, res := decide (s.fbuf.read 0 = some s.seq) }

/-- 41_packet_framer.md R85: `ISACK`, on a runt and on a frame of 3 bytes or more; bytes 1 and 2 are not examined. -/
def Obligations.IsackRecognisesTheAck : Prop :=
  encode .isack = 0x22000000#32 ∧
  ∀ s : State, s.fault = .none →
    (s.flen < 3 → exec .isack s = .next { s with runt := true, res := false }) ∧
    ∀ f, s.frame = some f → 3 ≤ s.flen →
      exec .isack s = .next { s with
        runt := false
        res := decide (s.flen = 6 ∧ s.fbuf.read 0 = some s.seq ∧ s.fbuf.read 3 = some 0x41#8 ∧
          s.fbuf.read 4 = some 0x43#8 ∧ s.fbuf.read 5 = some 0x4B#8) }

/-- 41_packet_framer.md R86: `PLD` copies the payload of the frame into `PBUF`, corrupted or not; a runt gives the empty
payload. That a byte at or past the new length has no value is the model's (10_state.md R31; log entry 4). -/
def Obligations.PldCopiesThePayload : Prop :=
  encode .pld = 0x23000000#32 ∧
  ∀ s : State, s.fault = .none →
    (s.flen < 3 → ∃ t, exec .pld s = .next t ∧ t = { s with runt := true, plen := 0, pbuf := t.pbuf } ∧
      t.payload = some [] ∧ ∀ a, t.pbuf.read a = none) ∧
    ∀ f, s.frame = some f → 3 ≤ s.flen → s.flen ≤ s.config.maxFrame →
      ∃ t, exec .pld s = .next t ∧ t = { s with runt := false, plen := t.plen, pbuf := t.pbuf } ∧
        t.plen = s.flen - 3 ∧ t.payload = some (payloadOf f) ∧
        (∀ i, i < s.flen - 3 → t.pbuf.read i = s.fbuf.read (3 + i)) ∧
        ∀ a, s.flen - 3 ≤ a → t.pbuf.read a = none

/-- 41_packet_framer.md R87: `ISCOR`, on a runt and on a frame of 3 bytes or more, with the spec's instances. -/
def Obligations.IscorReportsCorruption : Prop :=
  encode .iscor = 0x24000000#32 ∧
  (∀ s : State, s.fault = .none →
    (s.flen < 3 → exec .iscor s = .next { s with runt := true, res := true }) ∧
    ∀ b0 b1 b2 p, s.frame = some (b0 :: b1 :: b2 :: p) →
      exec .iscor s = .next { s with runt := false, res := decide (checksum b0 p ≠ word b1 b2) }) ∧
  (∀ (b0 : Byte) (p : List Byte), isCorrupted (b0 :: 0x00#8 :: 0x00#8 :: p) = true) ∧
  isCorrupted [0x00#8, 0xFF#8, 0xFF#8] = false ∧
  isCorrupted [0x37#8, 0xF6#8, 0xBB#8, 0x68#8, 0x65#8, 0x6C#8, 0x6C#8, 0x6F#8] = false ∧
  isCorrupted [0x00#8, 0x2D#8, 0xBC#8, 0x68#8, 0x65#8, 0x6C#8, 0x6C#8, 0x6F#8] = false ∧
  isCorrupted [0x00#8, 0x2D#8, 0xBC#8, 0x69#8, 0x65#8, 0x6C#8, 0x6C#8, 0x6F#8] = true

/-! ## The composites -/

/-- 43_composite_commands.md R95: `MKPKT`, which also rebuilds an identical frame when issued again, and whose frame is never
corrupted. That a byte past the new frame has no value is the model's (10_state.md R31; log entry 4). -/
def Obligations.MkpktBuildsAValidPacket : Prop :=
  encode .mkpkt = 0x30000000#32 ∧
  ∀ s : State, s.fault = .none →
    (1 < s.seq.toNat → exec .mkpkt s = .next { s with fault := .badseq, fcmd := 0x30000000#32 }) ∧
    ∀ p, s.config.Valid → s.seq.toNat ≤ 1 → s.payload = some p → s.plen ≤ s.config.maxPayload →
      ∃ t, exec .mkpkt s = .next t ∧
        t = { s with csum := checksum s.seq p, flen := t.flen, fbuf := t.fbuf } ∧ t.flen = s.plen + 3 ∧
        t.frame = some (encodeFrame s.seq p (checksum s.seq p)) ∧ (∀ a, s.plen + 3 ≤ a → t.fbuf.read a = none) ∧
        exec .mkpkt t = .next t ∧ isCorrupted (encodeFrame s.seq p (checksum s.seq p)) = false

/-- 43_composite_commands.md R96: `MKACK` builds one of the two ACK frames and leaves the payload alone. That a byte past the
new frame has no value is the model's (10_state.md R31; log entry 4). -/
def Obligations.MkackBuildsTheAck : Prop :=
  encode .mkack = 0x31000000#32 ∧
  ∀ s : State, s.fault = .none →
    (1 < s.seq.toNat → exec .mkack s = .next { s with fault := .badseq, fcmd := 0x31000000#32 }) ∧
    (s.config.Valid → s.seq = 0x00#8 → ∃ t, exec .mkack s = .next t ∧
      t = { s with csum := 0xBC73#16, flen := 6, fbuf := t.fbuf } ∧
      t.frame = some [0x00#8, 0xBC#8, 0x73#8, 0x41#8, 0x43#8, 0x4B#8] ∧ ∀ a, 6 ≤ a → t.fbuf.read a = none) ∧
    (s.config.Valid → s.seq = 0x01#8 → ∃ t, exec .mkack s = .next t ∧
      t = { s with csum := 0xBB73#16, flen := 6, fbuf := t.fbuf } ∧
      t.frame = some [0x01#8, 0xBB#8, 0x73#8, 0x41#8, 0x43#8, 0x4B#8] ∧ ∀ a, 6 ≤ a → t.fbuf.read a = none)

/-- 43_composite_commands.md R97: `MKPKT` ends in the same state as `CSUM`; `ENC` (in the fault case all but `CSUM` and the
recorded word), and `MKACK` leaves `CSUM` and the frame as `PLOAD 0x41 0x43 0x4B`; `MKPKT` would, and the payload as it was. -/
def Obligations.CompositesEqualTheirSequences : Prop :=
  (∀ s : State, s.fault = .none → s.Bounded →
    ∃ u v t, exec .csum s = .next u ∧ exec .enc u = .next v ∧ exec .mkpkt s = .next t ∧
      (s.seq.toNat ≤ 1 → t = v) ∧
      (1 < s.seq.toNat → t = { s with fault := .badseq, fcmd := encode .mkpkt } ∧
        v = { s with csum := u.csum, fault := .badseq, fcmd := encode .enc })) ∧
  ∀ s : State, s.config.Valid → s.fault = .none → s.seq.toNat ≤ 1 →
    ∃ u t, runWords (((Pseudo.pload ackMarker).expand ++ [Instr.mkpkt]).map encode) s = .next u ∧ exec .mkack s = .next t ∧
      t = { u with plen := s.plen, pbuf := s.pbuf }

/-- 30_encoding.md R59: `PLOAD` and `FLOAD` expand so that, run on a running block, they leave exactly the given bytes as the
payload and as the frame and change nothing else; `CHECK` is `ISCOR`. -/
def Obligations.LoadPseudoInstructionsLoad : Prop :=
  (∀ (s : State) (bs : List Byte), s.fault = .none → bs.length ≤ s.config.maxPayload →
    ∃ t, runWords ((Pseudo.pload bs).expand.map encode) s = .next t ∧ t = { s with plen := t.plen, pbuf := t.pbuf } ∧
      t.payload = some bs ∧ t.plen = bs.length) ∧
  (∀ (s : State) (bs : List Byte), s.fault = .none → bs.length ≤ s.config.maxFrame →
    ∃ t, runWords ((Pseudo.fload bs).expand.map encode) s = .next t ∧ t = { s with flen := t.flen, fbuf := t.fbuf } ∧
      t.frame = some bs ∧ t.flen = bs.length) ∧
  Pseudo.check.expand = [.iscor]

/-! ## Frames: what instructions leave unchanged -/

/-- 10_state.md R33, write sets of the registers and flags: `SEQ` is written by `WRSEQ` only, `CSUM` by `WRCSUM`, `CSUM`,
`MKPKT`, `MKACK` only, `RES` by `VRFY`, `HSEQ`, `ISACK`, `ISCOR` only, `RUNT` by `HSEQ`, `ISACK`, `PLD`, `ISCOR` only, `FAULT` and
`FCMD` only by a command that faults, and the host's list and the configuration by no command. -/
def Obligations.RegistersOutsideTheWriteSetStay : Prop :=
  ∀ (i : Instr) (s t : State), exec i s = .next t →
    ((∀ b, i ≠ .wrseq b) → t.seq = s.seq) ∧
    ((∀ c, i ≠ .wrcsum c) → i ∉ [Instr.csum, .mkpkt, .mkack] → t.csum = s.csum) ∧
    (i ∉ [Instr.vrfy, .hseq, .isack, .iscor] → t.res = s.res) ∧
    (i ∉ [Instr.hseq, .isack, .pld, .iscor] → t.runt = s.runt) ∧
    (t.fault = .none → t.fcmd = s.fcmd) ∧ (s.fault ≠ .none → t.fault = s.fault ∧ t.fcmd = s.fcmd) ∧
    t.pending = s.pending ∧ t.config = s.config

/-- 10_state.md R33 and R28, write sets of the buffers: `PBUF` and `PLEN` are written by `PCLR`, `PPUSH`, `PLD` only, `FBUF` and
`FLEN` by `FCLR`, `FPUSH`, `ENC`, `MKPKT`, `MKACK` only; a push stores one byte, at the length, and every other offset reads as
before; the other commands store below the new length, and every offset at or past it either reads as before or has no value any
more (which of the two is the model's choice, log entry 4). -/
def Obligations.BuffersOutsideTheWriteSetStay : Prop :=
  ∀ (i : Instr) (s t : State), exec i s = .next t →
    (i ≠ .pclr → (∀ b, i ≠ .ppush b) → i ≠ .pld → t.plen = s.plen ∧ ∀ a, t.pbuf.read a = s.pbuf.read a) ∧
    (i ∉ [Instr.fclr, .enc, .mkpkt, .mkack] → (∀ b, i ≠ .fpush b) → t.flen = s.flen ∧ ∀ a, t.fbuf.read a = s.fbuf.read a) ∧
    (∀ b, i = .ppush b → ∀ a, a ≠ s.plen → t.pbuf.read a = s.pbuf.read a) ∧
    (∀ b, i = .fpush b → ∀ a, a ≠ s.flen → t.fbuf.read a = s.fbuf.read a) ∧
    (i = .pclr ∨ i = .pld → ∀ a, t.plen ≤ a → t.pbuf.read a = s.pbuf.read a ∨ t.pbuf.read a = none) ∧
    (i ∈ [Instr.fclr, .enc, .mkpkt, .mkack] → ∀ a, t.flen ≤ a → t.fbuf.read a = s.fbuf.read a ∨ t.fbuf.read a = none) ∧
    (t.fault ≠ .none → t.plen = s.plen ∧ t.flen = s.flen ∧
      ∀ a, t.pbuf.read a = s.pbuf.read a ∧ t.fbuf.read a = s.fbuf.read a)

/-- 20_memory.md R42: no command, in any state whatever, gives a value to a byte at or past a buffer's capacity. -/
def Obligations.NoStoreAtOrPastCapacity : Prop :=
  ∀ (i : Instr) (s t : State), exec i s = .next t →
    (∀ a b, s.config.maxPayload ≤ a → t.pbuf.read a = some b → s.pbuf.read a = some b) ∧
    (∀ a b, s.config.maxFrame ≤ a → t.fbuf.read a = some b → s.fbuf.read a = some b)

/-- Every command keeps both buffers in their canonical form (offsets strictly rising), from any state that has it. -/
def Obligations.CommandsKeepBuffersCanonical : Prop :=
  ∀ (i : Instr) (s t : State), exec i s = .next t → s.pbuf.wf → s.fbuf.wf → t.pbuf.wf ∧ t.fbuf.wf

/-- 10_state.md R31: no command reads a byte at or past a length. Two states of one configuration that the host cannot tell apart,
whatever bytes their buffers hold past the lengths, answer every instruction alike: both with next states the host cannot tell
apart, or both with the same stop of the model. -/
def Obligations.StaleBytesNeverMatter : Prop :=
  ∀ (i : Instr) (s s' : State), s.config = s'.config → s.observe = s'.observe →
    (∃ t t', exec i s = .next t ∧ exec i s' = .next t' ∧ t.observe = t'.observe) ∨
      ∃ x, exec i s = .fault x ∧ exec i s' = .fault x

/-! ## What the checksum detects -/

/-- 70_reset_and_hazards.md R126: every change of a single bit anywhere in a valid frame, header or payload, makes it
corrupted. -/
def Obligations.SingleBitFlipIsDetected : Prop :=
  ∀ (raw : List Byte) (k j : Nat) (b : Byte), isCorrupted raw = false → raw[k]? = some b → j < 8 →
    isCorrupted (raw.set k (b ^^^ (1#8 <<< j))) = true

/-- 70_reset_and_hazards.md R126 (a) to (d): changes that are not detected. -/
def Obligations.UndetectedChanges : Prop :=
  (∀ (b0 b1 b2 : Byte) (p : List Byte), p.length % 2 = 0 →
    isCorrupted (b0 :: b1 :: b2 :: (p ++ [0x00#8])) = isCorrupted (b0 :: b1 :: b2 :: p)) ∧
  (∀ (b0 b1 b2 : Byte) (p : List Byte),
    isCorrupted (b0 :: b1 :: b2 :: (p ++ [0x00#8, 0x00#8])) = isCorrupted (b0 :: b1 :: b2 :: p)) ∧
  (∀ (b0 b1 b2 h l h' l' : Byte) (p q r : List Byte), p.length % 2 = 1 → q.length % 2 = 0 →
    isCorrupted (b0 :: b1 :: b2 :: (p ++ [h, l] ++ q ++ [h', l'] ++ r)) =
      isCorrupted (b0 :: b1 :: b2 :: (p ++ [h', l'] ++ q ++ [h, l] ++ r))) ∧
  (∀ (b0 b1 b2 : Byte) (p r : List Byte), p.length % 2 = 1 →
    isCorrupted (b0 :: b1 :: b2 :: (p ++ [0x00#8, 0x00#8] ++ r)) =
      isCorrupted (b0 :: b1 :: b2 :: (p ++ [0xFF#8, 0xFF#8] ++ r))) ∧
  ∀ (b0 b0' b1 b2 : Byte) (p p' : List Byte),
    wordSum (words (b0 :: p)) % 65535 = wordSum (words (b0' :: p')) % 65535 →
      isCorrupted (b0 :: b1 :: b2 :: p) = isCorrupted (b0' :: b1 :: b2 :: p')

/-! ## The configuration is fixed -/

/-- 10_state.md R16 and 70_reset_and_hazards.md R116: `MAX_FRAME` is fixed for the life of the machine: no instruction and no step,
reset included, changes the configuration. -/
def Obligations.ConfigurationNeverChanges : Prop :=
  ∀ s t : State, (step s = .next t → t.config = s.config) ∧ ∀ i, exec i s = .next t → t.config = s.config
end

