-- ==== Sys2Proof/Laws/Encoding.lean ====
section
/-! SUPPORT. The fields of a command word built from its fields, its bits one by one, and a word rebuilt from its fields. -/

namespace Sys2Proof

@[simp] theorem opField_cmdWord (op : Byte) (imm : Half) : opField (cmdWord op imm) = op := by
  ext i hi
  interval_cases i <;> simp [opField, cmdWord]

@[simp] theorem immField_cmdWord (op : Byte) (imm : Half) : immField (cmdWord op imm) = imm := by
  ext i hi
  interval_cases i <;> simp [immField, cmdWord]

@[simp] theorem rsvField_cmdWord (op : Byte) (imm : Half) : rsvField (cmdWord op imm) = 0#8 := by
  ext i hi
  interval_cases i <;> simp [rsvField, cmdWord]

@[simp] theorem immHigh_setWidth (b : Byte) : immHigh (b.setWidth 16) = 0#8 := by
  ext i hi
  interval_cases i <;> simp [immHigh]

@[simp] theorem immLow_setWidth (b : Byte) : immLow (b.setWidth 16) = b := by
  ext i hi
  interval_cases i <;> simp [immLow]

/-- The bits of a command word: `IMM` below bit 16, `RSV` zero below bit 24, `OP` above. -/
theorem getElem_cmdWord (op : Byte) (imm : Half) (i : Nat) (h : i < 32) :
    (cmdWord op imm)[i] = if i < 16 then imm.getLsbD i else if i < 24 then false else op.getLsbD (i - 24) := by
  simp only [cmdWord, BitVec.getElem_or, BitVec.getElem_shiftLeft, BitVec.getElem_setWidth]
  split
  · simp [show i < 24 by omega]
  · split
    · rename_i h1 h2
      simp [h2, BitVec.getLsbD_of_ge imm i (by omega)]
    · rename_i h1 h2
      simp [h2, BitVec.getLsbD_of_ge imm i (by omega)]

theorem getElem_rsvField (cw : CmdWord) (i : Nat) (h : i < 8) : (rsvField cw)[i] = cw.getLsbD (16 + i) := by
  simp [rsvField]

theorem getElem_immHigh (imm : Half) (i : Nat) (h : i < 8) : (immHigh imm)[i] = imm.getLsbD (8 + i) := by
  simp [immHigh]

/-- A word with `RSV = 0` is the word built from its `OP` and its `IMM`. -/
theorem cmdWord_of_fields {cw : CmdWord} (h : rsvField cw = 0#8) : cmdWord (opField cw) (immField cw) = cw := by
  ext i hi
  rw [getElem_cmdWord]
  split
  · rename_i h1
    simp [immField, h1, BitVec.getLsbD_eq_getElem hi]
  · split
    · rename_i h1 h2
      have hr := getElem_rsvField cw (i - 16) (by omega)
      rw [h, show 16 + (i - 16) = i by omega, BitVec.getLsbD_eq_getElem hi] at hr
      rw [← hr]
      exact (BitVec.getElem_zero (by omega)).symm
    · rename_i h1 h2
      have h3 : i - 24 < 8 := by omega
      simp [opField, h3, show 24 + (i - 24) = i by omega, BitVec.getLsbD_eq_getElem hi]

/-- An immediate with `IMM[15:8] = 0` is its low byte. -/
theorem imm_of_low {imm : Half} (h : immHigh imm = 0#8) : (immLow imm).setWidth 16 = imm := by
  ext i hi
  by_cases h8 : i < 8
  · simp [immLow, h8, BitVec.getLsbD_eq_getElem hi]
  · have hr := getElem_immHigh imm (i - 8) (by omega)
    rw [h, show 8 + (i - 8) = i by omega, BitVec.getLsbD_eq_getElem hi] at hr
    rw [← hr]
    simp [immLow, h8]

/-- `decode` on a word built from its fields is the opcode map. -/
theorem decode_cmdWord (op : Byte) (imm : Half) : decode (cmdWord op imm) = decodeOp op imm := by
  simp [decode]

end Sys2Proof
end

