-- ==== Sys2Proof/Laws/Memory.lean ====
section
/-! SUPPORT. The laws of the buffers' four operations, and that each keeps the canonical form. -/

namespace Sys2Proof.Machine

/-! ## Read after write -/

@[simp] theorem Memory.read_nil (a : Nat) : Memory.read [] a = none := rfl

theorem Memory.read_write_same (m : Memory) (a : Nat) (b : Byte) : (m.write a b).read a = some b := by
  induction m with
  | nil => simp [Memory.write, Memory.read]
  | cons c m ih =>
    obtain ⟨k, v⟩ := c
    simp only [Memory.write]
    split
    · simp [Memory.read]
    · split
      · simp [Memory.read]
      · simp only [Memory.read]
        rw [if_neg (by omega), ih]

theorem Memory.read_write_other (m : Memory) {a a' : Nat} (b : Byte) (h : a' ≠ a) :
    (m.write a b).read a' = m.read a' := by
  induction m with
  | nil => simp [Memory.write, Memory.read, h.symm]
  | cons c m ih =>
    obtain ⟨k, v⟩ := c
    simp only [Memory.write]
    split
    · simp [Memory.read, h.symm]
    · split
      · rename_i _ hk
        subst hk
        simp [Memory.read, h.symm]
      · simp [Memory.read, ih]

/-! ## The canonical form is kept -/

theorem Memory.wf_nil : Memory.wf [] := List.Pairwise.nil

theorem Memory.mem_write {m : Memory} {a k : Nat} {b v : Byte} (h : (k, v) ∈ m.write a b) :
    k = a ∨ (k, v) ∈ m := by
  induction m with
  | nil => simp_all [Memory.write]
  | cons c m ih =>
    obtain ⟨k', v'⟩ := c
    simp only [Memory.write] at h
    split at h
    · simp only [List.mem_cons] at h ⊢
      rcases h with h | h | h <;> simp_all
    · split at h
      · simp only [List.mem_cons] at h ⊢
        rcases h with h | h <;> simp_all
      · simp only [List.mem_cons] at h ⊢
        rcases h with h | h
        · simp_all
        · rcases ih h with h | h <;> simp_all

theorem Memory.write_wf {m : Memory} (a : Nat) (b : Byte) (h : m.wf) : (m.write a b).wf := by
  induction m with
  | nil => simp [Memory.write, Memory.wf]
  | cons c m ih =>
    obtain ⟨k, v⟩ := c
    simp only [Memory.wf, List.map_cons, List.pairwise_cons] at h
    simp only [Memory.write]
    split
    · rename_i hk
      simp only [Memory.wf, List.map_cons, List.pairwise_cons]
      refine ⟨fun x hx => ?_, h.1, h.2⟩
      rcases List.mem_cons.1 hx with rfl | hx
      · exact hk
      · exact Nat.lt_trans hk (h.1 x hx)
    · split
      · rename_i hk
        subst hk
        simpa only [Memory.wf, List.map_cons, List.pairwise_cons] using h
      · simp only [Memory.wf, List.map_cons, List.pairwise_cons]
        refine ⟨fun x hx => ?_, ih h.2⟩
        obtain ⟨⟨k', v'⟩, hm, rfl⟩ := List.mem_map.1 hx
        rcases Memory.mem_write hm with rfl | hm
        · simp only
          omega
        · exact h.1 _ (List.mem_map_of_mem (f := Prod.fst) hm)

theorem Memory.ofBytes_offsets (base : Nat) (bs : List Byte) :
    (Memory.ofBytes base bs).map Prod.fst = List.range' base bs.length := by
  induction bs generalizing base with
  | nil => rfl
  | cons b bs ih => simp [Memory.ofBytes, ih, List.range'_succ]

theorem Memory.ofBytes_covers (bs : List Byte) : (Memory.ofBytes 0 bs).covers bs.length := by
  simp [Memory.covers, Memory.ofBytes_offsets, List.range_eq_range']

theorem Memory.ofBytes_wf (base : Nat) (bs : List Byte) : (Memory.ofBytes base bs).wf := by
  simp only [Memory.wf, Memory.ofBytes_offsets]
  exact List.pairwise_lt_range'

theorem Memory.covers_wf {m : Memory} {n : Nat} (h : m.covers n) : m.wf := by
  simp only [Memory.wf]
  rw [h]
  exact List.pairwise_lt_range

/-! ## Buffers that hold exactly the bytes below a length -/

theorem Memory.write_past_end {m : Memory} {a : Nat} (b : Byte) (h : ∀ k ∈ m.map Prod.fst, k < a) :
    m.write a b = m ++ [(a, b)] := by
  induction m with
  | nil => rfl
  | cons c m ih =>
    obtain ⟨k, v⟩ := c
    have hk : k < a := h k (by simp)
    simp only [Memory.write, List.cons_append]
    rw [if_neg (by omega), if_neg (by omega), ih fun x hx => h x (by simp [hx])]

theorem Memory.write_covers {m : Memory} {n : Nat} (b : Byte) (h : m.covers n) : (m.write n b).covers (n + 1) := by
  have hm : m.map Prod.fst = List.range n := h
  rw [Memory.write_past_end b (by simp [hm])]
  simp [Memory.covers, hm, List.range_succ]

theorem Memory.readFrom_length {m : Memory} {base n : Nat} {bs : List Byte} (h : m.readFrom base n = some bs) :
    bs.length = n := by
  induction n generalizing base bs with
  | zero => simp_all [Memory.readFrom]
  | succ n ih =>
    simp only [Memory.readFrom] at h
    split at h
    · rename_i b bs' _ hbs
      cases h
      simp [ih hbs]
    · cases h

theorem Memory.readFrom_congr {m m' : Memory} {base n : Nat} (h : ∀ a, base ≤ a → a < base + n → m.read a = m'.read a) :
    m.readFrom base n = m'.readFrom base n := by
  induction n generalizing base with
  | zero => rfl
  | succ n ih =>
    simp only [Memory.readFrom]
    rw [h base (by omega) (by omega), ih fun a h1 h2 => h a (by omega) (by omega)]

theorem Memory.read_isSome_of_mem {m : Memory} {a : Nat} (h : a ∈ m.map Prod.fst) : (m.read a).isSome := by
  induction m with
  | nil => simp at h
  | cons c m ih =>
    obtain ⟨k, v⟩ := c
    simp only [Memory.read]
    split
    · rfl
    · rename_i hk
      simp only [List.map_cons, List.mem_cons] at h
      exact ih (h.resolve_left fun e => hk e.symm)

theorem Memory.readFrom_isSome {m : Memory} {base n : Nat} (h : ∀ a, base ≤ a → a < base + n → (m.read a).isSome) :
    (m.readFrom base n).isSome := by
  induction n generalizing base with
  | zero => rfl
  | succ n ih =>
    obtain ⟨b, hb⟩ := Option.isSome_iff_exists.1 (h base (by omega) (by omega))
    obtain ⟨bs, hbs⟩ := Option.isSome_iff_exists.1 (ih (base := base + 1) fun a h1 h2 => h a (by omega) (by omega))
    simp [Memory.readFrom, hb, hbs]

/-- Every operand is readable in a buffer that holds the bytes below its length. -/
theorem Memory.readFrom_of_covers {m : Memory} {n : Nat} (h : m.covers n) : ∃ bs, m.readFrom 0 n = some bs := by
  refine Option.isSome_iff_exists.1 (Memory.readFrom_isSome fun a _ ha => Memory.read_isSome_of_mem ?_)
  rw [h]
  exact List.mem_range.2 (by omega)

theorem Memory.read_ofBytes (base : Nat) (bs : List Byte) (i : Nat) : (Memory.ofBytes base bs).read (base + i) = bs[i]? := by
  induction bs generalizing base i with
  | nil => simp [Memory.ofBytes]
  | cons b bs ih =>
    cases i with
    | zero => simp [Memory.ofBytes, Memory.read]
    | succ i =>
      simp only [Memory.ofBytes, Memory.read]
      rw [if_neg (by omega), show base + (i + 1) = base + 1 + i by omega, ih]
      simp

/-- What was loaded is what is read. -/
theorem Memory.readFrom_ofBytes (base : Nat) (bs : List Byte) :
    (Memory.ofBytes base bs).readFrom base bs.length = some bs := by
  induction bs generalizing base with
  | nil => rfl
  | cons b bs ih =>
    have hr : (Memory.ofBytes base (b :: bs)).readFrom (base + 1) bs.length =
        (Memory.ofBytes (base + 1) bs).readFrom (base + 1) bs.length := by
      refine Memory.readFrom_congr fun a h1 _ => ?_
      simp only [Memory.ofBytes, Memory.read]
      rw [if_neg (by omega)]
    have h0 : (Memory.ofBytes base (b :: bs)).read base = some b := by simp [Memory.ofBytes, Memory.read]
    simp only [List.length_cons, Memory.readFrom, h0, hr, ih]

/-- Each byte of an operand that was read is the byte of the buffer. -/
theorem Memory.read_of_readFrom {m : Memory} {base n : Nat} {bs : List Byte} (h : m.readFrom base n = some bs) (i : Nat)
    (hi : i < n) : m.read (base + i) = bs[i]? := by
  induction n generalizing base bs i with
  | zero => omega
  | succ n ih =>
    rw [Memory.readFrom] at h
    split at h
    · rename_i b bs' h1 h2
      cases h
      cases i with
      | zero => simpa using h1
      | succ i =>
        have hr := ih h2 i (by omega)
        simpa [show base + 1 + i = base + (i + 1) by omega] using hr
    · cases h

theorem Memory.readFrom_snoc {m : Memory} {base n : Nat} {bs : List Byte} {b : Byte} (h : m.readFrom base n = some bs)
    (hb : m.read (base + n) = some b) : m.readFrom base (n + 1) = some (bs ++ [b]) := by
  induction n generalizing base bs with
  | zero =>
    simp only [Memory.readFrom, Option.some.injEq] at h
    subst h
    rw [Nat.add_zero] at hb
    simp [Memory.readFrom, hb]
  | succ n ih =>
    rw [Memory.readFrom] at h
    split at h
    · rename_i b0 bs' h0 hbs
      cases h
      rw [Memory.readFrom, h0, ih hbs (by rw [← hb]; congr 1; omega)]
      rfl
    · cases h

/-- Appending a byte at the length appends it to the operand. -/
theorem Memory.readFrom_write_end {m : Memory} {n : Nat} {bs : List Byte} (b : Byte) (h : m.readFrom 0 n = some bs) :
    (m.write n b).readFrom 0 (n + 1) = some (bs ++ [b]) := by
  refine Memory.readFrom_snoc ?_ (by simpa using Memory.read_write_same m n b)
  rw [← h]
  exact Memory.readFrom_congr fun a _ ha => Memory.read_write_other _ _ (by omega)

end Sys2Proof.Machine
end

