-- ==== Sys2Proof/Laws/Operands.lean ====
section
/-! SUPPORT. Word formation and its inverse, the range of the sum, the checksum as a number, and the widths of the lengths. -/

namespace Sys2Proof.Machine

theorem word_toNat (h l : Byte) : (word h l).toNat = h.toNat * 256 + l.toNat := by
  have := h.isLt
  have := l.isLt
  simp only [word, BitVec.toNat_ofNat]
  omega

@[simp] theorem hi8_word (h l : Byte) : hi8 (word h l) = h := by
  have := h.isLt
  have := l.isLt
  apply BitVec.eq_of_toNat_eq
  simp only [hi8, BitVec.extractLsb'_toNat, word_toNat, Nat.shiftRight_eq_div_pow]
  omega

@[simp] theorem lo8_word (h l : Byte) : lo8 (word h l) = l := by
  have := h.isLt
  have := l.isLt
  apply BitVec.eq_of_toNat_eq
  simp only [lo8, BitVec.extractLsb'_toNat, word_toNat, Nat.shiftRight_zero]
  omega

@[simp] theorem word_hi8_lo8 (c : Half) : word (hi8 c) (lo8 c) = c := by
  have := c.isLt
  apply BitVec.eq_of_toNat_eq
  simp only [word_toNat, hi8, lo8, BitVec.extractLsb'_toNat, Nat.shiftRight_eq_div_pow]
  omega

theorem wordSum_append (ws vs : List Half) : wordSum (ws ++ vs) = wordSum ws + wordSum vs := by
  induction ws with
  | nil => simp [wordSum]
  | cons w ws ih => simp only [List.cons_append, wordSum, ih, Nat.add_assoc]

theorem sum16_lt (bs : List Byte) : sum16 bs < 65535 := Nat.mod_lt _ (by decide)

theorem checksum_toNat (seq : Byte) (p : List Byte) : (checksum seq p).toNat = 65535 - sum16 (seq :: p) := by
  have := sum16_lt (seq :: p)
  simp only [checksum, BitVec.toNat_ofNat]
  omega

end Sys2Proof.Machine

namespace Sys2Proof

/-! The length registers hold every length up to the capacity. -/

theorem Config.maxFrame_lt_two_pow (c : Config) : c.maxFrame < 2 ^ c.lenW := Nat.lt_log2_self

/-- A length register stores every length up to `MAX_FRAME` as it is. -/
theorem Config.toLen_of_le {c : Config} {n : Nat} (h : n ≤ c.maxFrame) : c.toLen n = n :=
  Nat.mod_eq_of_lt (Nat.lt_of_le_of_lt h c.maxFrame_lt_two_pow)

@[simp] theorem Config.toLen_zero (c : Config) : c.toLen 0 = 0 := Nat.zero_mod _

theorem Config.maxPayload_le (c : Config) : c.maxPayload ≤ c.maxFrame := Nat.sub_le _ _

theorem Config.Valid.maxPayload_add {c : Config} (h : c.Valid) : c.maxPayload + headerLen = c.maxFrame :=
  Nat.sub_add_cancel (Nat.le_trans (by decide) h)

end Sys2Proof
end

