-- ==== Sys2Proof/Laws/State.lean ====
section
/-! SUPPORT. What each named update of the state does to each field. -/

namespace Sys2Proof.Machine

/-! Fault entry writes `FAULT` and `FCMD` only (60_exceptions.md R102). -/

@[simp] theorem State.raise_config (s : State) (x : FaultCode) (cw : CmdWord) : (s.raise x cw).config = s.config := rfl
@[simp] theorem State.raise_seq (s : State) (x : FaultCode) (cw : CmdWord) : (s.raise x cw).seq = s.seq := rfl
@[simp] theorem State.raise_csum (s : State) (x : FaultCode) (cw : CmdWord) : (s.raise x cw).csum = s.csum := rfl
@[simp] theorem State.raise_res (s : State) (x : FaultCode) (cw : CmdWord) : (s.raise x cw).res = s.res := rfl
@[simp] theorem State.raise_runt (s : State) (x : FaultCode) (cw : CmdWord) : (s.raise x cw).runt = s.runt := rfl
@[simp] theorem State.raise_fault (s : State) (x : FaultCode) (cw : CmdWord) : (s.raise x cw).fault = x := rfl
@[simp] theorem State.raise_fcmd (s : State) (x : FaultCode) (cw : CmdWord) : (s.raise x cw).fcmd = cw := rfl
@[simp] theorem State.raise_plen (s : State) (x : FaultCode) (cw : CmdWord) : (s.raise x cw).plen = s.plen := rfl
@[simp] theorem State.raise_pbuf (s : State) (x : FaultCode) (cw : CmdWord) : (s.raise x cw).pbuf = s.pbuf := rfl
@[simp] theorem State.raise_flen (s : State) (x : FaultCode) (cw : CmdWord) : (s.raise x cw).flen = s.flen := rfl
@[simp] theorem State.raise_fbuf (s : State) (x : FaultCode) (cw : CmdWord) : (s.raise x cw).fbuf = s.fbuf := rfl
@[simp] theorem State.raise_pending (s : State) (x : FaultCode) (cw : CmdWord) : (s.raise x cw).pending = s.pending := rfl

/-! Loading `PBUF` whole. -/

@[simp] theorem State.loadPayload_config (s : State) (bs : List Byte) : (s.loadPayload bs).config = s.config := rfl
@[simp] theorem State.loadPayload_seq (s : State) (bs : List Byte) : (s.loadPayload bs).seq = s.seq := rfl
@[simp] theorem State.loadPayload_csum (s : State) (bs : List Byte) : (s.loadPayload bs).csum = s.csum := rfl
@[simp] theorem State.loadPayload_res (s : State) (bs : List Byte) : (s.loadPayload bs).res = s.res := rfl
@[simp] theorem State.loadPayload_runt (s : State) (bs : List Byte) : (s.loadPayload bs).runt = s.runt := rfl
@[simp] theorem State.loadPayload_fault (s : State) (bs : List Byte) : (s.loadPayload bs).fault = s.fault := rfl
@[simp] theorem State.loadPayload_fcmd (s : State) (bs : List Byte) : (s.loadPayload bs).fcmd = s.fcmd := rfl
@[simp] theorem State.loadPayload_plen (s : State) (bs : List Byte) : (s.loadPayload bs).plen = s.config.toLen bs.length := rfl
@[simp] theorem State.loadPayload_pbuf (s : State) (bs : List Byte) : (s.loadPayload bs).pbuf = Memory.ofBytes 0 bs := rfl
@[simp] theorem State.loadPayload_flen (s : State) (bs : List Byte) : (s.loadPayload bs).flen = s.flen := rfl
@[simp] theorem State.loadPayload_fbuf (s : State) (bs : List Byte) : (s.loadPayload bs).fbuf = s.fbuf := rfl
@[simp] theorem State.loadPayload_pending (s : State) (bs : List Byte) : (s.loadPayload bs).pending = s.pending := rfl

/-! Loading `FBUF` whole. -/

@[simp] theorem State.loadFrame_config (s : State) (bs : List Byte) : (s.loadFrame bs).config = s.config := rfl
@[simp] theorem State.loadFrame_seq (s : State) (bs : List Byte) : (s.loadFrame bs).seq = s.seq := rfl
@[simp] theorem State.loadFrame_csum (s : State) (bs : List Byte) : (s.loadFrame bs).csum = s.csum := rfl
@[simp] theorem State.loadFrame_res (s : State) (bs : List Byte) : (s.loadFrame bs).res = s.res := rfl
@[simp] theorem State.loadFrame_runt (s : State) (bs : List Byte) : (s.loadFrame bs).runt = s.runt := rfl
@[simp] theorem State.loadFrame_fault (s : State) (bs : List Byte) : (s.loadFrame bs).fault = s.fault := rfl
@[simp] theorem State.loadFrame_fcmd (s : State) (bs : List Byte) : (s.loadFrame bs).fcmd = s.fcmd := rfl
@[simp] theorem State.loadFrame_plen (s : State) (bs : List Byte) : (s.loadFrame bs).plen = s.plen := rfl
@[simp] theorem State.loadFrame_pbuf (s : State) (bs : List Byte) : (s.loadFrame bs).pbuf = s.pbuf := rfl
@[simp] theorem State.loadFrame_flen (s : State) (bs : List Byte) : (s.loadFrame bs).flen = s.config.toLen bs.length := rfl
@[simp] theorem State.loadFrame_fbuf (s : State) (bs : List Byte) : (s.loadFrame bs).fbuf = Memory.ofBytes 0 bs := rfl
@[simp] theorem State.loadFrame_pending (s : State) (bs : List Byte) : (s.loadFrame bs).pending = s.pending := rfl

/-! Appending to `PBUF`. -/

@[simp] theorem State.appendPayload_config (s : State) (b : Byte) : (s.appendPayload b).config = s.config := rfl
@[simp] theorem State.appendPayload_seq (s : State) (b : Byte) : (s.appendPayload b).seq = s.seq := rfl
@[simp] theorem State.appendPayload_csum (s : State) (b : Byte) : (s.appendPayload b).csum = s.csum := rfl
@[simp] theorem State.appendPayload_res (s : State) (b : Byte) : (s.appendPayload b).res = s.res := rfl
@[simp] theorem State.appendPayload_runt (s : State) (b : Byte) : (s.appendPayload b).runt = s.runt := rfl
@[simp] theorem State.appendPayload_fault (s : State) (b : Byte) : (s.appendPayload b).fault = s.fault := rfl
@[simp] theorem State.appendPayload_fcmd (s : State) (b : Byte) : (s.appendPayload b).fcmd = s.fcmd := rfl
@[simp] theorem State.appendPayload_plen (s : State) (b : Byte) : (s.appendPayload b).plen = s.config.toLen (s.plen + 1) := rfl
@[simp] theorem State.appendPayload_pbuf (s : State) (b : Byte) : (s.appendPayload b).pbuf = s.pbuf.write s.plen b := rfl
@[simp] theorem State.appendPayload_flen (s : State) (b : Byte) : (s.appendPayload b).flen = s.flen := rfl
@[simp] theorem State.appendPayload_fbuf (s : State) (b : Byte) : (s.appendPayload b).fbuf = s.fbuf := rfl
@[simp] theorem State.appendPayload_pending (s : State) (b : Byte) : (s.appendPayload b).pending = s.pending := rfl

/-! Appending to `FBUF`. -/

@[simp] theorem State.appendFrame_config (s : State) (b : Byte) : (s.appendFrame b).config = s.config := rfl
@[simp] theorem State.appendFrame_seq (s : State) (b : Byte) : (s.appendFrame b).seq = s.seq := rfl
@[simp] theorem State.appendFrame_csum (s : State) (b : Byte) : (s.appendFrame b).csum = s.csum := rfl
@[simp] theorem State.appendFrame_res (s : State) (b : Byte) : (s.appendFrame b).res = s.res := rfl
@[simp] theorem State.appendFrame_runt (s : State) (b : Byte) : (s.appendFrame b).runt = s.runt := rfl
@[simp] theorem State.appendFrame_fault (s : State) (b : Byte) : (s.appendFrame b).fault = s.fault := rfl
@[simp] theorem State.appendFrame_fcmd (s : State) (b : Byte) : (s.appendFrame b).fcmd = s.fcmd := rfl
@[simp] theorem State.appendFrame_plen (s : State) (b : Byte) : (s.appendFrame b).plen = s.plen := rfl
@[simp] theorem State.appendFrame_pbuf (s : State) (b : Byte) : (s.appendFrame b).pbuf = s.pbuf := rfl
@[simp] theorem State.appendFrame_flen (s : State) (b : Byte) : (s.appendFrame b).flen = s.config.toLen (s.flen + 1) := rfl
@[simp] theorem State.appendFrame_fbuf (s : State) (b : Byte) : (s.appendFrame b).fbuf = s.fbuf.write s.flen b := rfl
@[simp] theorem State.appendFrame_pending (s : State) (b : Byte) : (s.appendFrame b).pending = s.pending := rfl

/-! Writing `RES`. -/

@[simp] theorem State.setRes_config (s : State) (b : Bool) : (s.setRes b).config = s.config := rfl
@[simp] theorem State.setRes_seq (s : State) (b : Bool) : (s.setRes b).seq = s.seq := rfl
@[simp] theorem State.setRes_csum (s : State) (b : Bool) : (s.setRes b).csum = s.csum := rfl
@[simp] theorem State.setRes_res (s : State) (b : Bool) : (s.setRes b).res = b := rfl
@[simp] theorem State.setRes_runt (s : State) (b : Bool) : (s.setRes b).runt = s.runt := rfl
@[simp] theorem State.setRes_fault (s : State) (b : Bool) : (s.setRes b).fault = s.fault := rfl
@[simp] theorem State.setRes_fcmd (s : State) (b : Bool) : (s.setRes b).fcmd = s.fcmd := rfl
@[simp] theorem State.setRes_plen (s : State) (b : Bool) : (s.setRes b).plen = s.plen := rfl
@[simp] theorem State.setRes_pbuf (s : State) (b : Bool) : (s.setRes b).pbuf = s.pbuf := rfl
@[simp] theorem State.setRes_flen (s : State) (b : Bool) : (s.setRes b).flen = s.flen := rfl
@[simp] theorem State.setRes_fbuf (s : State) (b : Bool) : (s.setRes b).fbuf = s.fbuf := rfl
@[simp] theorem State.setRes_pending (s : State) (b : Bool) : (s.setRes b).pending = s.pending := rfl

/-! Writing `RUNT`. -/

@[simp] theorem State.setRunt_config (s : State) (b : Bool) : (s.setRunt b).config = s.config := rfl
@[simp] theorem State.setRunt_seq (s : State) (b : Bool) : (s.setRunt b).seq = s.seq := rfl
@[simp] theorem State.setRunt_csum (s : State) (b : Bool) : (s.setRunt b).csum = s.csum := rfl
@[simp] theorem State.setRunt_res (s : State) (b : Bool) : (s.setRunt b).res = s.res := rfl
@[simp] theorem State.setRunt_runt (s : State) (b : Bool) : (s.setRunt b).runt = b := rfl
@[simp] theorem State.setRunt_fault (s : State) (b : Bool) : (s.setRunt b).fault = s.fault := rfl
@[simp] theorem State.setRunt_fcmd (s : State) (b : Bool) : (s.setRunt b).fcmd = s.fcmd := rfl
@[simp] theorem State.setRunt_plen (s : State) (b : Bool) : (s.setRunt b).plen = s.plen := rfl
@[simp] theorem State.setRunt_pbuf (s : State) (b : Bool) : (s.setRunt b).pbuf = s.pbuf := rfl
@[simp] theorem State.setRunt_flen (s : State) (b : Bool) : (s.setRunt b).flen = s.flen := rfl
@[simp] theorem State.setRunt_fbuf (s : State) (b : Bool) : (s.setRunt b).fbuf = s.fbuf := rfl
@[simp] theorem State.setRunt_pending (s : State) (b : Bool) : (s.setRunt b).pending = s.pending := rfl

/-! Reset leaves only the configuration and what the host has yet to give. -/

@[simp] theorem resetBlock_config (s : State) : (resetBlock s).config = s.config := rfl
@[simp] theorem resetBlock_pending (s : State) : (resetBlock s).pending = s.pending := rfl

end Sys2Proof.Machine
end

