-- ==== Sys2Proof/Laws/Ops.lean ====
section
/-! SUPPORT. For each shared operation, what it can answer. -/

namespace Sys2Proof.Machine

variable {s t : State}

/-! ## Running and halted -/

theorem whileRunning_halted (body : Outcome) (h : s.fault ≠ .none) : whileRunning s body = .next s := by
  simp [whileRunning, h]

theorem whileRunning_running (body : Outcome) (h : s.fault = .none) : whileRunning s body = body := by
  simp [whileRunning, h]

theorem whileRunning_next {body : Outcome} :
    whileRunning s body = .next t ↔ (s.fault ≠ .none ∧ t = s) ∨ (s.fault = .none ∧ body = .next t) := by
  by_cases h : s.fault = .none
  · simp [whileRunning, h]
  · simp [whileRunning, h, eq_comm]

theorem illegalWord_next {cw : CmdWord} :
    illegalWord cw s = .next t ↔
      (s.fault ≠ .none ∧ t = s) ∨ (s.fault = .none ∧ t = s.raise .illegal cw) := by
  rw [illegalWord, whileRunning_next, Host.Outcome.next.injEq, eq_comm (a := s.raise _ _)]

/-! ## Operands -/

theorem withPayload_some {p : List Byte} (body : List Byte → Outcome) (h : s.payload = some p) :
    withPayload s body = body p := by
  simp [withPayload, h]

theorem withPayload_next {body : List Byte → Outcome} :
    withPayload s body = .next t ↔ ∃ p, s.payload = some p ∧ body p = .next t := by
  cases h : s.payload <;> simp [withPayload, h]

theorem withFrame_some {f : List Byte} (body : List Byte → Outcome) (h : s.frame = some f) :
    withFrame s body = body f := by
  simp [withFrame, h]

theorem withFrame_next {body : List Byte → Outcome} :
    withFrame s body = .next t ↔ ∃ f, s.frame = some f ∧ body f = .next t := by
  cases h : s.frame <;> simp [withFrame, h]

theorem State.payload_length {p : List Byte} (h : s.payload = some p) : p.length = s.plen :=
  Memory.readFrom_length h

theorem State.frame_length {f : List Byte} (h : s.frame = some f) : f.length = s.flen :=
  Memory.readFrom_length h

/-! ## What a loaded buffer holds -/

theorem State.plen_loadPayload {bs : List Byte} (h : bs.length ≤ s.config.maxPayload) :
    (s.loadPayload bs).plen = bs.length :=
  Config.toLen_of_le (Nat.le_trans h s.config.maxPayload_le)

theorem State.flen_loadFrame {bs : List Byte} (h : bs.length ≤ s.config.maxFrame) : (s.loadFrame bs).flen = bs.length :=
  Config.toLen_of_le h

theorem State.payload_loadPayload {bs : List Byte} (h : bs.length ≤ s.config.maxPayload) : (s.loadPayload bs).payload = some bs := by
  rw [State.payload, State.plen_loadPayload h]
  exact Memory.readFrom_ofBytes 0 bs

theorem State.frame_loadFrame {bs : List Byte} (h : bs.length ≤ s.config.maxFrame) : (s.loadFrame bs).frame = some bs := by
  rw [State.frame, State.flen_loadFrame h]
  exact Memory.readFrom_ofBytes 0 bs

theorem State.read_loadPayload (bs : List Byte) (a : Nat) : (s.loadPayload bs).pbuf.read a = bs[a]? := by
  simpa using Memory.read_ofBytes 0 bs a

theorem State.read_loadFrame (bs : List Byte) (a : Nat) : (s.loadFrame bs).fbuf.read a = bs[a]? := by
  simpa using Memory.read_ofBytes 0 bs a

theorem State.payload_appendPayload {p : List Byte} (b : Byte) (h : s.payload = some p) (hl : s.plen < s.config.maxPayload) :
    (s.appendPayload b).payload = some (p ++ [b]) := by
  rw [State.payload, State.appendPayload_plen, Config.toLen_of_le (Nat.le_trans hl s.config.maxPayload_le)]
  exact Memory.readFrom_write_end b h

theorem State.frame_appendFrame {f : List Byte} (b : Byte) (h : s.frame = some f) (hl : s.flen < s.config.maxFrame) :
    (s.appendFrame b).frame = some (f ++ [b]) := by
  rw [State.frame, State.appendFrame_flen, Config.toLen_of_le hl]
  exact Memory.readFrom_write_end b h

/-! ## Checks and stores -/

theorem withSendableSeq_next {cw : CmdWord} {body : Outcome} :
    withSendableSeq cw s body = .next t ↔
      (1 < s.seq.toNat ∧ t = s.raise .badseq cw) ∨ (s.seq.toNat ≤ 1 ∧ body = .next t) := by
  by_cases h : 1 < s.seq.toNat
  · simp [withSendableSeq, h, eq_comm, Nat.not_le.2 h]
  · simp [withSendableSeq, h, Nat.not_lt.1 h]

theorem pushPayload_next {cw : CmdWord} {b : Byte} :
    pushPayload cw b s = .next t ↔
      (s.plen = s.config.maxPayload ∧ t = s.raise .oversize cw) ∨ (s.plen < s.config.maxPayload ∧ t = s.appendPayload b) := by
  unfold pushPayload
  split
  · rename_i h
    simp [h, eq_comm]
  · split <;> rename_i h1 h2 <;> simp [h1, h2, eq_comm]

theorem pushFrame_next {cw : CmdWord} {b : Byte} :
    pushFrame cw b s = .next t ↔
      (s.flen = s.config.maxFrame ∧ t = s.raise .oversize cw) ∨ (s.flen < s.config.maxFrame ∧ t = s.appendFrame b) := by
  unfold pushFrame
  split
  · rename_i h
    simp [h, eq_comm]
  · split <;> rename_i h1 h2 <;> simp [h1, h2, eq_comm]

theorem storePayload_next {bs : List Byte} :
    storePayload bs s = .next t ↔ bs.length ≤ s.config.maxPayload ∧ t = s.loadPayload bs := by
  unfold storePayload
  split <;> rename_i h <;> simp [h, eq_comm]

theorem storeFrame_next {bs : List Byte} :
    storeFrame bs s = .next t ↔ bs.length ≤ s.config.maxFrame ∧ t = s.loadFrame bs := by
  unfold storeFrame
  split <;> rename_i h <;> simp [h, eq_comm]

theorem examineFrame_next {onRunt : State → Outcome} {onFrame : List Byte → State → Outcome} :
    examineFrame s onRunt onFrame = .next t ↔
      (s.FrameIsRunt ∧ onRunt (s.setRunt true) = .next t) ∨
        (¬ s.FrameIsRunt ∧ ∃ f, s.frame = some f ∧ onFrame f (s.setRunt false) = .next t) := by
  by_cases h : s.FrameIsRunt <;> simp [examineFrame, h, withFrame_next]

theorem makePacket_next {p : List Byte} :
    makePacket p s = .next t ↔
      (encodeFrame s.seq p (checksum s.seq p)).length ≤ s.config.maxFrame ∧
        t = { s with csum := checksum s.seq p }.loadFrame (encodeFrame s.seq p (checksum s.seq p)) := by
  simp [makePacket, storeFrame_next]

/-! ## Steps -/

theorem takeStep_idle (h : s.pending = []) : takeStep s = .next s := by
  simp [takeStep, h]

theorem takeStep_next {a : HostAction} {rest : List HostAction} (h : s.pending = a :: rest) :
    takeStep s = hostAct a { s with pending := rest } := by
  simp [takeStep, h]

theorem issueWord_decoded {cw : CmdWord} {i : Instr} (h : decode cw = .ok i) : issueWord cw s = exec i s := by
  simp [issueWord, h]

theorem issueWord_illegal {cw : CmdWord} {x : DecodeError} (h : decode cw = .error x) :
    issueWord cw s = illegalWord cw s := by
  simp [issueWord, h]

end Sys2Proof.Machine
end

