-- ==== Sys2Proof/Laws/Exec.lean ====
section
/-! SUPPORT. What a command can do in a running block: the one case analysis of exec. -/

namespace Sys2Proof.Machine

/-- When a running block answers a next state, which one it is, instruction by instruction. -/
theorem exec_running_next {i : Instr} {s t : State} (hs : s.fault = .none) (h : exec i s = .next t) :
    match i with
    | .wrseq b => t = { s with seq := b }
    | .wrcsum c => t = { s with csum := c }
    | .pclr => t = s.loadPayload []
    | .ppush b =>
      (s.plen = s.config.maxPayload ∧ t = s.raise .oversize (encode (.ppush b))) ∨
        (s.plen < s.config.maxPayload ∧ t = s.appendPayload b)
    | .fclr => t = s.loadFrame []
    | .fpush b =>
      (s.flen = s.config.maxFrame ∧ t = s.raise .oversize (encode (.fpush b))) ∨
        (s.flen < s.config.maxFrame ∧ t = s.appendFrame b)
    | .csum => ∃ p, s.payload = some p ∧ t = { s with csum := checksum s.seq p }
    | .vrfy => ∃ p, s.payload = some p ∧ t = s.setRes (verify s.seq p s.csum)
    | .enc =>
      (1 < s.seq.toNat ∧ t = s.raise .badseq (encode .enc)) ∨
        (s.seq.toNat ≤ 1 ∧ ∃ p, s.payload = some p ∧ (encodeFrame s.seq p s.csum).length ≤ s.config.maxFrame ∧
          t = s.loadFrame (encodeFrame s.seq p s.csum))
    | .hseq =>
      (s.FrameIsRunt ∧ t = (s.setRunt true).setRes false) ∨
        (¬ s.FrameIsRunt ∧ ∃ f, s.frame = some f ∧ t = (s.setRunt false).setRes (hasSeq s.seq f))
    | .isack =>
      (s.FrameIsRunt ∧ t = (s.setRunt true).setRes false) ∨
        (¬ s.FrameIsRunt ∧ ∃ f, s.frame = some f ∧ t = (s.setRunt false).setRes (isAck f s.seq))
    | .pld =>
      (s.FrameIsRunt ∧ t = (s.setRunt true).loadPayload []) ∨
        (¬ s.FrameIsRunt ∧ ∃ f, s.frame = some f ∧ (payloadOf f).length ≤ s.config.maxPayload ∧
          t = (s.setRunt false).loadPayload (payloadOf f))
    | .iscor =>
      (s.FrameIsRunt ∧ t = (s.setRunt true).setRes true) ∨
        (¬ s.FrameIsRunt ∧ ∃ f, s.frame = some f ∧ t = (s.setRunt false).setRes (isCorrupted f))
    | .mkpkt =>
      (1 < s.seq.toNat ∧ t = s.raise .badseq (encode .mkpkt)) ∨
        (s.seq.toNat ≤ 1 ∧ ∃ p, s.payload = some p ∧
          (encodeFrame s.seq p (checksum s.seq p)).length ≤ s.config.maxFrame ∧
          t = { s with csum := checksum s.seq p }.loadFrame (encodeFrame s.seq p (checksum s.seq p)))
    | .mkack =>
      (1 < s.seq.toNat ∧ t = s.raise .badseq (encode .mkack)) ∨
        (s.seq.toNat ≤ 1 ∧ (encodeFrame s.seq ackMarker (checksum s.seq ackMarker)).length ≤ s.config.maxFrame ∧
          t = { s with csum := checksum s.seq ackMarker }.loadFrame
            (encodeFrame s.seq ackMarker (checksum s.seq ackMarker)))
    | .frameData tag c => t = s.raise .illegal (encode (.frameData tag c))
    | .frameAck0 => t = s.raise .illegal (encode .frameAck0)
    | .frameAck1 => t = s.raise .illegal (encode .frameAck1) := by
  have hw : ∀ b, whileRunning s b = b := fun b => whileRunning_running b hs
  cases i <;>
    simp only [exec, execWrseq, execWrcsum, execPclr, execPpush, execFclr, execFpush, execCsum, execVrfy, execEnc, execHseq,
      execIsack, execPld, execIscor, execMkpkt, execMkack, execFrameData, execFrameAck0, execFrameAck1, illegalWord, hw,
      pushPayload_next, pushFrame_next, withPayload_next, withSendableSeq_next, storeFrame_next, storePayload_next,
      examineFrame_next, makePacket_next, Host.Outcome.next.injEq] at h ⊢ <;>
    simp only [eq_comm (a := t)] <;>
    first
      | exact h
      | simpa [eq_comm] using h

end Sys2Proof.Machine
end

