-- ==== Sys2Proof/Laws/PerInstr.lean ====
section
/-! SUPPORT. One lemma for each instruction about its encoding. -/

namespace Sys2Proof

/-- A command's word has `RSV = 0`, and exactly the frame patterns have wire bytes (30_encoding.md R48, R53). -/
def Laws.Encoding.Statement (i : Instr) : Prop :=
  (i.WellFormed → rsvField (encode i) = 0#8) ∧ (wireBytes i = none ↔ i.WellFormed)

theorem Laws.Encoding.wrseq (imm8 : Byte) : Laws.Encoding.Statement (.wrseq imm8) :=
  ⟨fun _ => rsvField_cmdWord _ _, by simp [wireBytes, Instr.WellFormed, Instr.format]⟩

theorem Laws.Encoding.wrcsum (imm16 : Half) : Laws.Encoding.Statement (.wrcsum imm16) :=
  ⟨fun _ => rsvField_cmdWord _ _, by simp [wireBytes, Instr.WellFormed, Instr.format]⟩

theorem Laws.Encoding.pclr : Laws.Encoding.Statement .pclr :=
  ⟨fun _ => rsvField_cmdWord _ _, by simp [wireBytes, Instr.WellFormed, Instr.format]⟩

theorem Laws.Encoding.ppush (imm8 : Byte) : Laws.Encoding.Statement (.ppush imm8) :=
  ⟨fun _ => rsvField_cmdWord _ _, by simp [wireBytes, Instr.WellFormed, Instr.format]⟩

theorem Laws.Encoding.fclr : Laws.Encoding.Statement .fclr :=
  ⟨fun _ => rsvField_cmdWord _ _, by simp [wireBytes, Instr.WellFormed, Instr.format]⟩

theorem Laws.Encoding.fpush (imm8 : Byte) : Laws.Encoding.Statement (.fpush imm8) :=
  ⟨fun _ => rsvField_cmdWord _ _, by simp [wireBytes, Instr.WellFormed, Instr.format]⟩

theorem Laws.Encoding.csum : Laws.Encoding.Statement .csum :=
  ⟨fun _ => rsvField_cmdWord _ _, by simp [wireBytes, Instr.WellFormed, Instr.format]⟩

theorem Laws.Encoding.vrfy : Laws.Encoding.Statement .vrfy :=
  ⟨fun _ => rsvField_cmdWord _ _, by simp [wireBytes, Instr.WellFormed, Instr.format]⟩

theorem Laws.Encoding.enc : Laws.Encoding.Statement .enc :=
  ⟨fun _ => rsvField_cmdWord _ _, by simp [wireBytes, Instr.WellFormed, Instr.format]⟩

theorem Laws.Encoding.hseq : Laws.Encoding.Statement .hseq :=
  ⟨fun _ => rsvField_cmdWord _ _, by simp [wireBytes, Instr.WellFormed, Instr.format]⟩

theorem Laws.Encoding.isack : Laws.Encoding.Statement .isack :=
  ⟨fun _ => rsvField_cmdWord _ _, by simp [wireBytes, Instr.WellFormed, Instr.format]⟩

theorem Laws.Encoding.pld : Laws.Encoding.Statement .pld :=
  ⟨fun _ => rsvField_cmdWord _ _, by simp [wireBytes, Instr.WellFormed, Instr.format]⟩

theorem Laws.Encoding.iscor : Laws.Encoding.Statement .iscor :=
  ⟨fun _ => rsvField_cmdWord _ _, by simp [wireBytes, Instr.WellFormed, Instr.format]⟩

theorem Laws.Encoding.mkpkt : Laws.Encoding.Statement .mkpkt :=
  ⟨fun _ => rsvField_cmdWord _ _, by simp [wireBytes, Instr.WellFormed, Instr.format]⟩

theorem Laws.Encoding.mkack : Laws.Encoding.Statement .mkack :=
  ⟨fun _ => rsvField_cmdWord _ _, by simp [wireBytes, Instr.WellFormed, Instr.format]⟩

theorem Laws.Encoding.frameData (s : BitVec 1) (c : Half) : Laws.Encoding.Statement (.frameData s c) :=
  ⟨fun h => (nomatch h), by simp [wireBytes, Instr.WellFormed, Instr.format]⟩

theorem Laws.Encoding.frameAck0 : Laws.Encoding.Statement .frameAck0 :=
  ⟨fun h => (nomatch h), by simp [wireBytes, Instr.WellFormed, Instr.format]⟩

theorem Laws.Encoding.frameAck1 : Laws.Encoding.Statement .frameAck1 :=
  ⟨fun h => (nomatch h), by simp [wireBytes, Instr.WellFormed, Instr.format]⟩

end Sys2Proof
end

