-- ==== Sys2Proof/Tests/Slice0.lean ====
section
/-! SUPPORT. Tests of the model against words and vectors of spec/, and for each statement with hypotheses a witness that they
can be met together. Expected results come from 30_encoding.md and 95_test_vectors.md (the row is named), or by hand from the
rule named. -/

namespace Sys2Proof.Tests

open Sys2Proof.Machine

/-- The next state an answer holds. -/
def after : Outcome → Option State
  | .next s => some s
  | .fault _ => none
  | .refused _ => none

/-- The model's stop an answer holds. -/
def stop : Outcome → Option Fault
  | .next _ => none
  | .fault x => some x
  | .refused _ => none

/-- A running state with these operands, payload and frame. -/
def st (seq : Byte) (csum : Half) (p f : List Byte) : State :=
  { ({ State.reset with seq := seq, csum := csum }.loadPayload p).loadFrame f with pending := [] }

/-- A running state with nothing loaded and this word to come. -/
def offered (cw : CmdWord) : State := { State.reset with pending := [.command cw] }

def hello : List Byte := [0x68#8, 0x65#8, 0x6C#8, 0x6C#8, 0x6F#8]
def hi : List Byte := [0x68#8, 0x69#8]

/-- V10's frame. -/
def helloFrame : List Byte := [0x00#8, 0x2D#8, 0xBC#8, 0x68#8, 0x65#8, 0x6C#8, 0x6C#8, 0x6F#8]

/-! ## Well-formedness: a frame pattern is no command -/

theorem test_frameData_ill_formed : ¬ (Instr.frameData 1#1 0xBB73#16).WellFormed := by decide
theorem test_frameAck0_ill_formed : ¬ Instr.frameAck0.WellFormed := by decide
theorem test_frameAck1_ill_formed : ¬ Instr.frameAck1.WellFormed := by decide
theorem test_command_well_formed : (Instr.wrseq 0xFF#8).WellFormed := by decide

/-! ## Decoding: one word written out for each row of the opcode table (30_encoding.md R53 to R55, R48, R52)

`OP` in bits 31..24, eight zeros of `RSV`, then `IMM`. -/

theorem test_decode_wrseq : decodeTableWord 32 0b00000001000000000000000000110111 = some (.wrseq 0x37#8) := by decide
theorem test_decode_wrcsum : decodeTableWord 32 0b00000010000000000010110110111100 = some (.wrcsum 0x2DBC#16) := by decide
theorem test_decode_pclr : decodeTableWord 32 0b00000011000000000000000000000000 = some .pclr := by decide
theorem test_decode_ppush : decodeTableWord 32 0b00000100000000000000000001101000 = some (.ppush 0x68#8) := by decide
theorem test_decode_fclr : decodeTableWord 32 0b00000101000000000000000000000000 = some (.fclr) := by decide
theorem test_decode_fpush : decodeTableWord 32 0b00000110000000000000000010111100 = some (.fpush 0xBC#8) := by decide
theorem test_decode_csum : decodeTableWord 32 0b00010000000000000000000000000000 = some (.csum) := by decide
theorem test_decode_vrfy : decodeTableWord 32 0b00010001000000000000000000000000 = some (.vrfy) := by decide
theorem test_decode_enc : decodeTableWord 32 0b00100000000000000000000000000000 = some (.enc) := by decide
theorem test_decode_hseq : decodeTableWord 32 0b00100001000000000000000000000000 = some (.hseq) := by decide
theorem test_decode_isack : decodeTableWord 32 0b00100010000000000000000000000000 = some (.isack) := by decide
theorem test_decode_pld : decodeTableWord 32 0b00100011000000000000000000000000 = some (.pld) := by decide
theorem test_decode_iscor : decodeTableWord 32 0b00100100000000000000000000000000 = some (.iscor) := by decide
theorem test_decode_mkpkt : decodeTableWord 32 0b00110000000000000000000000000000 = some (.mkpkt) := by decide
theorem test_decode_mkack : decodeTableWord 32 0b00110001000000000000000000000000 = some (.mkack) := by decide
theorem test_decode_frameData : decodeTableWord 24 0b000000010010110010111100 = some (.frameData 1#1 0x2CBC#16) := by decide
theorem test_decode_frameAck0 : decodeTableWord 48 0x00BC7341434B = some .frameAck0 := by decide
theorem test_decode_frameAck1 : decodeTableWord 48 0x01BB7341434B = some .frameAck1 := by decide
theorem test_decode_frame_reserved_tag : decodeTableWord 24 0x022CBC = none := by decide
theorem test_decode_rejects : decodeTableWord 32 0x00000000 = none ∧ decodeTableWord 32 0x01010000 = none ∧
    decodeTableWord 32 0x01000100 = none ∧ decodeTableWord 32 0x10000001 = none ∧ decodeTableWord 32 0x07000000 = none ∧
    decodeTableWord 32 0xFFFFFFFF = none := by decide
theorem test_encode_words : encode (.wrseq 0xFF#8) = 0x010000FF#32 ∧ encode (.wrcsum 0x2DBC#16) = 0x02002DBC#32 ∧
    encode (.fpush 0x11#8) = 0x06000011#32 ∧ encode .mkack = 0x31000000#32 := by decide
theorem test_fetch_word : after (step (State.reset.withFetchWord 32 0x01000001)) = some { State.reset with seq := 0x01#8 } := by
  decide
theorem test_fetch_frame_row : after (step (State.reset.withFetchWord 24 0x012CBC)) =
    some { State.reset with fault := .illegal, fcmd := 0x00012CBC#32 } := by decide

/-! ## The functions: table V, table Y and table X -/

theorem test_checksum_vectors :
    checksum 0x00#8 [] = 0xFFFF#16 ∧ checksum 0x01#8 [] = 0xFEFF#16 ∧ checksum 0x00#8 [0xFF#8] = 0xFF00#16 ∧
    checksum 0x00#8 hello = 0x2DBC#16 ∧ checksum 0x01#8 hello = 0x2CBC#16 ∧
    checksum 0x00#8 [0xFF#8, 0xFF#8, 0x00#8] = 0xFFFF#16 ∧ checksum 0x00#8 [0xFF#8, 0xFF#8, 0xFF#8] = 0xFF00#16 ∧
    checksum 0x01#8 [0xFF#8, 0xFF#8, 0xFF#8, 0xFF#8, 0xFF#8] = 0xFE00#16 ∧ checksum 0x00#8 [0xFF#8, 0xFE#8, 0x01#8] = 0x00FF#16 ∧
    checksum 0x00#8 hi = 0x9697#16 ∧ checksum 0x01#8 hi = 0x9597#16 ∧
    checksum 0x01#8 [0x77#8, 0x6F#8, 0x72#8, 0x6C#8, 0x64#8, 0x21#8] = 0x01B2#16 ∧ checksum 0x37#8 hello = 0xF6BB#16 ∧
    checksum 0xFF#8 [0xFF#8] = 0xFFFF#16 := by decide
theorem test_verify_vectors :
    verify 0x00#8 hello 0x2DBC#16 = true ∧ verify 0x00#8 hello 0x2DBD#16 = false ∧ verify 0x00#8 hello 0x2DBB#16 = false ∧
    verify 0x01#8 hello 0x2DBC#16 = false ∧ verify 0x00#8 [] 0x0000#16 = false ∧
    verify 0x00#8 [0xFF#8, 0xFF#8, 0x00#8] 0xFFFF#16 = true ∧ verify 0x00#8 [0xFF#8, 0xFF#8, 0x00#8] 0x0000#16 = false := by decide
theorem test_frame_vectors :
    isCorrupted helloFrame = false ∧ isCorrupted [0x00#8, 0x2D#8, 0x3C#8, 0x68#8, 0x65#8, 0x6C#8, 0x6C#8, 0x6F#8] = true ∧
    isCorrupted [0x01#8, 0x2D#8, 0xBC#8, 0x68#8, 0x65#8, 0x6C#8, 0x6C#8, 0x6F#8] = true ∧
    isCorrupted [0x00#8, 0xFF#8, 0xBE#8, 0x41#8, 0xFF#8, 0xFF#8] = false ∧
    isAck [0x00#8, 0xBB#8, 0x73#8, 0x41#8, 0x43#8, 0x4B#8] 0x00#8 = true ∧
    isAck [0x00#8, 0x00#8, 0x00#8, 0x41#8, 0x43#8, 0x4B#8, 0x00#8] 0x00#8 = false ∧
    isAck [0x00#8, 0xBC#8, 0xBE#8, 0x41#8, 0x43#8] 0x00#8 = false := by decide

/-! ## One step of each instruction: tables O, M, F and X -/

theorem test_wrseq_O2 : after (step (offered 0x010000FF#32)) = some { State.reset with seq := 0xFF#8 } := by decide
theorem test_wrcsum_O4 : after (step (offered 0x0200FFFF#32)) = some { State.reset with csum := 0xFFFF#16 } := by decide
theorem test_pclr_O6 : (after (exec .pclr (st 0 0 hi []))).map (fun t => (t.plen, t.payload, t.hostReadPayload 0)) =
    some (0, some [], none) := by decide
theorem test_ppush_O5 : (after (exec (.ppush 0x69#8) (st 0 0 [0x68#8] []))).map (fun t => (t.plen, t.payload)) =
    some (2, some hi) := by decide
theorem test_ppush_F5 : after (exec (.ppush 0xAB#8) { State.reset with plen := 1497 }) =
    some { State.reset with plen := 1497, fault := .oversize, fcmd := 0x040000AB#32 } := by decide
theorem test_fclr_O8 : (after (exec .fclr { st 0 0 [] [0x00#8, 0xFF#8] with runt := true })).map
    (fun t => (t.flen, t.frame, t.runt)) = some (0, some [], true) := by decide
theorem test_fpush_O7 : (after (exec (.fpush 0xFF#8) (st 0 0 [] [0x00#8]))).map (fun t => (t.flen, t.frame)) =
    some (2, some [0x00#8, 0xFF#8]) := by decide
theorem test_fpush_F6 : after (exec (.fpush 0x11#8) { State.reset with flen := 1500 }) =
    some { State.reset with flen := 1500, fault := .oversize, fcmd := 0x06000011#32 } := by decide
theorem test_csum_V20 : (after (exec .csum (st 0x01#8 0 [0x77#8, 0x6F#8, 0x72#8, 0x6C#8, 0x64#8, 0x21#8] []))).map State.csum =
    some 0x01B2#16 := by decide
theorem test_csum_F9 : (after (exec .csum (st 0x02#8 0 [0x41#8] []))).map (fun t => (t.csum, t.fault)) =
    some (0xFDBE#16, .none) := by decide
theorem test_vrfy_Y1 : (after (exec .vrfy (st 0x00#8 0x2DBC#16 hello []))).map State.res = some true := by decide
theorem test_vrfy_Y8 : (after (exec .vrfy (st 0x00#8 0x0000#16 [0xFF#8, 0xFF#8, 0x00#8] []))).map State.res = some false := by
  decide
theorem test_enc_P5 : (after (exec .enc (st 0x01#8 0x9597#16 hi []))).map (fun t => (t.flen, t.frame)) =
    some (5, some [0x01#8, 0x95#8, 0x97#8, 0x68#8, 0x69#8]) := by decide
theorem test_enc_F8 : after (step { offered 0x20000000#32 with seq := 0x02#8 }) =
    some { State.reset with seq := 0x02#8, fault := .badseq, fcmd := 0x20000000#32 } := by decide
theorem test_hseq_X0 : (after (exec .hseq { st 0x00#8 0 [] helloFrame with runt := true })).map (fun t => (t.res, t.runt)) =
    some (true, false) := by decide
theorem test_hseq_P8 : (after (exec .hseq { st 0x00#8 0 [] [0x00#8, 0xFF#8] with res := true })).map (fun t => (t.res, t.runt)) =
    some (false, true) := by decide
theorem test_isack_X6 : (after (exec .isack (st 0x00#8 0 [] [0x00#8, 0xBB#8, 0x73#8, 0x41#8, 0x43#8, 0x4B#8]))).map State.res =
    some true := by decide
theorem test_isack_P3 : (after (exec .isack { st 0x01#8 0 [] [0x00#8, 0xBC#8, 0x73#8, 0x41#8, 0x43#8, 0x4B#8] with res := true
    })).map State.res = some false := by decide
theorem test_pld_X1 : (after (exec .pld { st 0x00#8 0 hi (helloFrame.set 3 0x69#8) with res := true })).map
    (fun t => (t.plen, t.payload, t.runt, t.res)) =
      some (5, some [0x69#8, 0x65#8, 0x6C#8, 0x6C#8, 0x6F#8], false, true) := by decide
theorem test_pld_P8 : (after (exec .pld (st 0x00#8 0 hi [0x00#8, 0xFF#8]))).map (fun t => (t.plen, t.payload, t.runt)) =
    some (0, some [], true) := by decide
theorem test_iscor_X10 : (after (exec .iscor (st 0x00#8 0 [] [0x00#8, 0x00#8, 0x00#8]))).map (fun t => (t.res, t.runt)) =
    some (true, false) := by decide
theorem test_iscor_X16 : (after (exec .iscor (st 0x00#8 0 []
    [0x00#8, 0x2D#8, 0xBC#8, 0x68#8, 0x6C#8, 0x6F#8, 0x65#8, 0x6C#8]))).map State.res = some false := by decide
theorem test_mkpkt_M2 : (after (exec .mkpkt (st 0x01#8 0 [] []))).map (fun t => (t.csum, t.flen, t.frame)) =
    some (0xFEFF#16, 3, some [0x01#8, 0xFE#8, 0xFF#8]) := by decide
theorem test_mkpkt_F7 : after (exec .mkpkt (st 0x02#8 0x1234#16 [0x41#8] [0x00#8])) =
    some { st 0x02#8 0x1234#16 [0x41#8] [0x00#8] with fault := .badseq, fcmd := 0x30000000#32 } := by decide
theorem test_mkack_M4 : (after (exec .mkack (st 0x01#8 0 hi []))).map (fun t => (t.csum, t.flen, t.frame, t.payload)) =
    some (0xBB73#16, 6, some [0x01#8, 0xBB#8, 0x73#8, 0x41#8, 0x43#8, 0x4B#8], some hi) := by decide
theorem test_mkack_F8 : after (step { offered 0x31000000#32 with seq := 0x02#8 }) =
    some { State.reset with seq := 0x02#8, fault := .badseq, fcmd := 0x31000000#32 } := by decide

/-! ## Illegal words, the halted state, reset and what the host reads: F1 to F4, F10, P6 -/

theorem test_illegal_F2 : after (step (offered 0x01010000#32)) =
    some { State.reset with fault := .illegal, fcmd := 0x01010000#32 } := by decide
theorem test_illegal_F3 : after (step (offered 0x01000100#32)) =
    some { State.reset with fault := .illegal, fcmd := 0x01000100#32 } := by decide
theorem test_illegal_F4 : after (step (offered 0xFFFFFFFF#32)) =
    some { State.reset with fault := .illegal, fcmd := 0xFFFFFFFF#32 } := by decide
theorem test_halted_F10 : after (step { offered 0x01000000#32 with seq := 0x02#8, fault := .badseq, fcmd := 0x30000000#32 }) =
    some { State.reset with seq := 0x02#8, fault := .badseq, fcmd := 0x30000000#32 } := by decide
theorem test_reset_leaves_halted :
    after (step { st 0x02#8 0x1234#16 hi helloFrame with fault := .badseq, fcmd := 0x30000000#32, pending := [.reset] }) =
      some State.reset := by decide
theorem test_observe : (st 0x01#8 0x9597#16 hi []).observe =
    { seq := 0x01#8, csum := 0x9597#16, res := false, runt := false, fault := 0#2, fcmd := 0#32, plen := 2, flen := 0,
      payload := [some 0x68#8, some 0x69#8], frame := [] } := by decide

/-! ## Another configuration: `MAX_FRAME = 6`, the least that a configuration may have (00_scope.md R6, R7, R11) -/

/-- A block with room for an ACK frame and no more. -/
def smallest : State := State.resetWith { maxFrame := 6 }

theorem test_small_capacity : smallest.config.Valid ∧ smallest.config.maxPayload = 3 ∧
    (after (exec (.ppush 0x4B#8) (smallest.loadPayload [0x41#8, 0x43#8]))).map (fun t => (t.plen, t.fault)) = some (3, .none) ∧
    (after (exec (.ppush 0x00#8) (smallest.loadPayload ackMarker))).map (fun t => (t.plen, t.fault)) = some (3, .oversize) ∧
    (after (exec (.fpush 0x00#8) { smallest with flen := 6 })).map (fun t => (t.flen, t.fault)) = some (6, .oversize) := by decide
theorem test_small_mkack : (after (exec .mkack smallest)).map (fun t => (t.flen, t.frame)) =
    some (6, some [0x00#8, 0xBC#8, 0x73#8, 0x41#8, 0x43#8, 0x4B#8]) := by decide
theorem test_small_reset : after (step { smallest with seq := 0x02#8, fault := .badseq, pending := [.reset] }) = some smallest := by
  decide
theorem test_length_widths : ([6, 7, 8, 1500, 2047, 2048].map fun n => Config.lenW { maxFrame := n }) = [3, 3, 4, 11, 11, 12] := by
  decide

/-! ## The model's own stops, in states no run reaches (log entry 5) -/

theorem test_stop_unwritten_payload : stop (exec .csum { State.reset with plen := 1 }) = some .unwrittenPayloadByte := by decide
theorem test_stop_unwritten_frame : stop (exec .iscor { State.reset with flen := 3 }) = some .unwrittenFrameByte := by decide
theorem test_stop_outside_payload : stop (exec (.ppush 0#8) { State.reset with plen := 1498 }) = some .outsidePayloadBuffer := by
  decide
theorem test_stop_outside_frame : stop (exec (.fpush 0#8) { State.reset with flen := 1501 }) = some .outsideFrameBuffer := by
  decide

/-! ## The engine: section 6's traces -/

/-- An engine whose registers hold what an earlier command left. -/
def usedEngine : Engine := { acc := 0x1234#16, hold := 0x56#8, ph := true, stor := 0x789A#16 }

theorem test_engine_trace : (usedEngine.start.absorb 0x00#8).acc = 0x0000#16 ∧
    ((usedEngine.start.absorb 0x00#8).absorb 0x68#8).acc = 0x0068#16 ∧
    (((usedEngine.start.absorb 0x00#8).absorb 0x68#8).absorb 0x65#8).hold = 0x65#8 ∧
    (usedEngine.sum 0x00#8 hello).acc = 0xD243#16 ∧ (usedEngine.sum 0x01#8 hi).acc = 0x6A68#16 ∧
    (usedEngine.sum 0x00#8 [0xFF#8, 0xFF#8, 0x00#8]).acc = 0x0000#16 := by decide
theorem test_engine_frame : (usedEngine.sumFrame helloFrame).stor = 0x2DBC#16 ∧
    (usedEngine.sumFrame helloFrame).acc = 0xD243#16 ∧ usedEngine.frameCorrupted helloFrame = false := by decide

/-! ## Assembler lines (30_encoding.md R58, R59; the program listings of section 5) -/

/-- The words of an assembler line, or none where it is refused. -/
def wordsOf (line : List Char) : Option (List CmdWord) := ((assembleLine line).toOption).map (·.map encode)

theorem test_assemble_operand : wordsOf ['W', 'R', 'C', 'S', 'U', 'M', ' ', '0', 'x', '2', 'D', 'B', 'C'] =
    some [0x02002DBC#32] := by decide
theorem test_assemble_decimal : wordsOf ['P', 'P', 'U', 'S', 'H', ' ', '1', '0', '4', ' ', ';', ' ', 'h'] =
    some [0x04000068#32] := by decide
theorem test_assemble_too_wide : wordsOf ['P', 'P', 'U', 'S', 'H', ' ', '2', '5', '6'] = none := by decide
theorem test_assemble_pload_text : wordsOf ['P', 'L', 'O', 'A', 'D', ' ', '"', 'h', 'i', '"'] =
    some [0x03000000#32, 0x04000068#32, 0x04000069#32] := by decide
/-- The model's choice (log entry 15): the first semicolon is text, the second starts a comment. -/
theorem test_assemble_text_semicolon : wordsOf ['P', 'L', 'O', 'A', 'D', ' ', '"', 'h', ';', '"', ';', 'x'] =
    some [0x03000000#32, 0x04000068#32, 0x0400003B#32] := by decide
theorem test_assemble_fload : wordsOf ['F', 'L', 'O', 'A', 'D', ' ', '0', 'x', '0', '0', ' ', '0', 'x', 'F', 'F'] =
    some [0x05000000#32, 0x06000000#32, 0x060000FF#32] := by decide
theorem test_assemble_check : wordsOf ['C', 'H', 'E', 'C', 'K'] = some [0x24000000#32] := by decide

/-! ## Witnesses: the hypotheses of each statement met together, at a boundary value of each clause -/

/-- A running state with a payload and a frame loaded. -/
def loaded : State := st 0x01#8 0x9597#16 hi helloFrame

/-- The same state halted by `MKPKT` offered a tag above 1. -/
def halted : State := { loaded with seq := 0x02#8, fault := .badseq, fcmd := 0x30000000#32 }

theorem witness_DecodeInvertsEncode : (Instr.wrcsum 0xFFFF#16).WellFormed ∧ (Instr.fpush 0x00#8).WellFormed := by decide
theorem witness_DecodedWordIsItsEncoding : decode 0x0200FFFF#32 = .ok (.wrcsum 0xFFFF#16) := rfl
theorem witness_IllegalWordsRaiseIllegal :
    State.reset.fault = .none ∧ (offered 0x00000000#32).pending = [.command 0x00000000#32] ∧
    (step (offered 0x01000037#32) = .next { State.reset with seq := 0x37#8 } ∧ opField 0x01000037#32 = 0x01#8) ∧
    (opField 0x00000000#32).toNat = 0x00 ∧ rsvField 0x01010000#32 ≠ 0#8 ∧
    (opField 0x10000001#32 = 0x10#8 ∧ immField 0x10000001#32 ≠ 0#16) ∧
    (opField 0x01000100#32 = 0x01#8 ∧ (0x01000100#32).extractLsb' 8 8 ≠ 0#8) :=
  ⟨by decide, by decide, ⟨rfl, by decide⟩, by decide⟩
theorem witness_FramePatternsAreRecognised :
    wireBytes (.frameData 1#1 0xFEFF#16) = some [0x01#8, 0xFE#8, 0xFF#8] ∧ (wireBytes .frameAck0).isSome ∧
    (wireBytes .frameAck1).isSome := by decide
theorem witness_FrameRowsRaiseIllegal : loaded.fault = .none ∧ (Instr.frameData 0#1 0#16).format = .frame := by decide
theorem witness_StepRunsDecodedCommand :
    (offered 0x11000000#32).pending = .command 0x11000000#32 :: [] ∧ (decode 0x11000000#32).toOption = some .vrfy := by decide
theorem witness_IdleBlockStays : loaded.pending = [] := by decide
theorem witness_HaltedBlockIgnoresCommands :
    halted.fault ≠ .none ∧ { halted with pending := [.command 0xFFFFFFFF#32] }.pending = .command 0xFFFFFFFF#32 :: [] := by decide
theorem witness_OnlyResetLeavesTheHaltedState :
    { halted with pending := [.reset] }.fault ≠ .none ∧ after (step { halted with pending := [.reset] }) = some State.reset ∧
    State.reset.fault = .none := by decide
theorem witness_FaultsArePrecise :
    loaded.fault = .none ∧
    (after (step { loaded with pending := [.command 0x07000000#32] })).map State.fault = some .illegal ∧
    (after (step { loaded with pending := [.command 0x04000000#32], plen := 1497 })).map State.fault = some .oversize ∧
    (after (step { loaded with pending := [.command 0x20000000#32], seq := 0x02#8 })).map State.fault = some .badseq := by decide
theorem witness_FaultCausesAreComplete :
    (after (step { loaded with pending := [.command 0x06000000#32], flen := 1500 })).map State.fault = some .oversize ∧
    (after (step { loaded with pending := [.command 0x06000000#32] })).map State.fault = some .none ∧
    (after (step { loaded with pending := [.command 0x31000000#32], seq := 0xFF#8 })).map State.fault = some .badseq ∧
    (after (step { loaded with pending := [.command 0x31000000#32] })).map State.fault = some .none := by decide
theorem witness_FaultPriority :
    halted.fault ≠ .none ∧ loaded.fault = .none ∧ (decode 0x01010000#32).toOption = none ∧
    (decode 0x040000AB#32).toOption = some (.ppush 0xAB#8) ∧
    (after (step { loaded with pending := [.command 0x040000AB#32], plen := 1497, res := true })).map
      (fun t => (t.fault, t.res)) = some (.oversize, true) := by decide
/-- P7: `WRSEQ 0x01`, an illegal word, `CSUM`, from a state that meets the invariant. -/
theorem witness_RunsEndAtTheFirstFault :
    State.reset.fault = .none ∧
    (after (runWords [0x01000001#32, 0x10000001#32, 0x10000000#32] State.reset)) =
      some { State.reset with seq := 0x01#8, fault := .illegal, fcmd := 0x10000001#32 } := by decide
theorem witness_DataResultsAreNoFaults :
    loaded.fault = .none ∧ (after (exec .iscor loaded)).isSome ∧ loaded.frame = some helloFrame ∧
    (after (exec .iscor (st 0 0 [] [0x00#8, 0x00#8]))).isSome ∧ (st 0 0 [] [0x00#8, 0x00#8]).flen < 3 ∧
    isCorrupted [0x00#8, 0x00#8, 0x00#8] = true := by decide
theorem witness_StepKeepsInvariant : loaded.Inv ∧ (after (step loaded)).isSome :=
  ⟨⟨⟨by decide, by decide, by decide, by decide, by decide⟩, rfl⟩, by decide⟩
theorem witness_ResetMeetsInvariant : smallest.config.Valid := by decide
theorem witness_ResetStateValues : smallest = State.resetWith { maxFrame := 6 } ∧ smallest ≠ State.reset := by decide
theorem witness_ConfigurationFits : 6 ≤ Config.maxFrame { maxFrame := 6 } ∧ 1500 ≤ Config.default.maxFrame ∧ 1500 < 2 ^ 11 := by decide
theorem witness_ConfigurationNeverChanges :
    (after (step { smallest with pending := [.reset] })).isSome ∧ (after (exec .mkack smallest)).isSome := by decide
theorem witness_EveryStepCompletes : halted.Inv :=
  ⟨⟨by decide, by decide, by decide, by decide, by decide⟩, ⟨by decide, .inr (.inl rfl)⟩⟩
theorem witness_WrseqLoadsTheTag :
    loaded.fault = .none ∧ opField 0x01000100#32 = 0x01#8 ∧ (0x01000100#32).extractLsb' 8 8 ≠ 0#8 ∧
    opField 0x01FF0000#32 = 0x01#8 ∧ rsvField 0x01FF0000#32 ≠ 0#8 := by decide
theorem witness_WrcsumLoadsTheChecksum : loaded.fault = .none ∧ opField 0x02800000#32 = 0x02#8 ∧ rsvField 0x02800000#32 ≠ 0#8 := by
  decide
theorem witness_PclrEmptiesThePayload : loaded.fault = .none ∧ loaded.payload = some hi := by decide
theorem witness_PpushAppendsOrFaults :
    loaded.fault = .none ∧ loaded.payload = some hi ∧ loaded.plen < loaded.config.maxPayload ∧
    { loaded with plen := 1497 }.plen = loaded.config.maxPayload ∧ { loaded with plen := 1496 }.plen + 1 = loaded.config.maxPayload := by decide
theorem witness_FclrEmptiesTheFrame : loaded.fault = .none ∧ loaded.frame = some helloFrame := by decide
theorem witness_FpushAppendsOrFaults :
    loaded.frame = some helloFrame ∧ loaded.flen < loaded.config.maxFrame ∧
    { loaded with flen := 1500 }.flen = loaded.config.maxFrame ∧ { loaded with flen := 1499 }.flen + 1 = loaded.config.maxFrame := by decide
theorem witness_WordsReadTheBytesBigEndian : words [0x01#8, 0x68#8, 0x69#8] = [0x0168#16, 0x6900#16] := by decide
theorem witness_AddmodReducesOnce :
    (0xFFFE#16).toNat ≤ 65534 ∧ 65536 ≤ (0xFFFE#16).toNat + (0xFFFF#16).toNat ∧ (0xFFFE#16).toNat + (0x0001#16).toNat = 65535 ∧
    (0xFFFE#16).toNat + (0x0000#16).toNat < 65535 ∧ addmod 0xFFFE#16 0xFFFF#16 = 0xFFFE#16 := by decide
theorem witness_CsumComputesTheChecksum : loaded.fault = .none ∧ loaded.payload = some hi := by decide
theorem witness_VrfyTestsTheChecksum :
    loaded.fault = .none ∧ loaded.payload = some hi ∧ (after (exec .vrfy (st 0 0x0000#16 hi []))).isSome := by decide
theorem witness_EngineDecidesCorruption : 3 ≤ [0x00#8, 0xFF#8, 0xFF#8].length ∧
    usedEngine.frameCorrupted [0x00#8, 0xFF#8, 0xFF#8] = false := by decide
theorem witness_FramerRoundTrips : 3 ≤ [0x00#8, 0x12#8, 0x34#8].length ∧
    encodeFrame 0x00#8 [] 0x1234#16 = [0x00#8, 0x12#8, 0x34#8] := by decide
theorem witness_RuntFramesAreCorrupted : [0x00#8, 0xFF#8].length < 3 ∧ ([] : List Byte).length < 3 := by decide
theorem witness_IsAckExaminesTheWholePayload :
    3 ≤ [0x00#8, 0xFF#8, 0xFF#8].length ∧ isAck [0x00#8, 0xBC#8, 0x73#8, 0x41#8, 0x43#8, 0x4B#8] 0x00#8 = true := by decide
theorem witness_ExactlyTwoAckFrames :
    isAck [0x01#8, 0xBB#8, 0x73#8, 0x41#8, 0x43#8, 0x4B#8] 0x01#8 = true ∧
    isCorrupted [0x01#8, 0xBB#8, 0x73#8, 0x41#8, 0x43#8, 0x4B#8] = false ∧ (0x01#8).toNat ≤ 1 := by decide
theorem witness_EncBuildsTheFrame :
    loaded.config.Valid ∧ loaded.fault = .none ∧ loaded.seq.toNat ≤ 1 ∧ loaded.payload = some hi ∧ loaded.plen ≤ loaded.config.maxPayload ∧
    1 < { loaded with seq := 0x02#8 }.seq.toNat := by decide
theorem witness_HseqComparesTheTag :
    loaded.frame = some helloFrame ∧ 3 ≤ loaded.flen ∧ (st 0 0 [] [0x00#8, 0xFF#8]).flen < 3 ∧
    3 ≤ (st 0 0 [] [0x00#8, 0xFF#8, 0xFF#8]).flen := by decide
theorem witness_IsackRecognisesTheAck :
    (st 0 0 [] [0x00#8, 0xBC#8, 0x73#8, 0x41#8, 0x43#8, 0x4B#8]).flen = 6 ∧ (st 0 0 [] []).flen < 3 := by decide
theorem witness_PldCopiesThePayload :
    loaded.fault = .none ∧ loaded.frame = some helloFrame ∧ 3 ≤ loaded.flen ∧ loaded.flen ≤ loaded.config.maxFrame ∧
    (st 0 0 hi [0x00#8]).flen < 3 ∧ (st 0 0 hi [0x00#8, 0xFF#8]).flen = 2 ∧
    (st 0 0 hi [0x00#8, 0xFF#8, 0xFF#8]).flen = 3 ∧ (st 0 0 hi [0x00#8, 0xFF#8, 0xFF#8]).frame = some [0x00#8, 0xFF#8, 0xFF#8] ∧
    (after (exec .pld (st 0 0 hi [0x00#8, 0xFF#8, 0xFF#8]))).map (fun t => (t.plen, t.runt)) = some (0, false) := by decide
theorem witness_IscorReportsCorruption :
    (st 0 0 [] [0x00#8, 0xFF#8, 0xFF#8]).frame = some (0x00#8 :: 0xFF#8 :: 0xFF#8 :: []) ∧ (st 0 0 [] [0x00#8]).flen < 3 := by
  decide
theorem witness_MkpktBuildsAValidPacket :
    loaded.config.Valid ∧ loaded.fault = .none ∧ loaded.seq.toNat ≤ 1 ∧ loaded.payload = some hi ∧ loaded.plen ≤ loaded.config.maxPayload ∧
    1 < halted.seq.toNat := by decide
theorem witness_MkackBuildsTheAck :
    loaded.config.Valid ∧ loaded.fault = .none ∧ loaded.seq = 0x01#8 ∧ (st 0x00#8 0 [] []).seq = 0x00#8 ∧ 1 < (st 0x02#8 0 [] []).seq.toNat := by decide
theorem witness_CompositesEqualTheirSequences :
    loaded.config.Valid ∧ loaded.fault = .none ∧ loaded.Bounded ∧ loaded.seq.toNat ≤ 1 ∧
    (st 0x02#8 0 [0x41#8] []).Bounded ∧ 1 < (st 0x02#8 0 [0x41#8] []).seq.toNat :=
  ⟨by decide, by decide, ⟨by decide, by decide, by decide, by decide, by decide⟩, by decide,
    ⟨by decide, by decide, by decide, by decide, by decide⟩, by decide⟩
theorem witness_LoadPseudoInstructionsLoad : loaded.fault = .none ∧ hello.length ≤ loaded.config.maxPayload ∧ helloFrame.length ≤ loaded.config.maxFrame := by
  decide
theorem witness_RegistersOutsideTheWriteSetStay :
    (after (exec .csum loaded)).isSome ∧ (after (exec .csum halted)).isSome ∧ halted.fault ≠ .none := by decide
theorem witness_BuffersOutsideTheWriteSetStay :
    (after (exec .pclr loaded)).map (fun t => (t.plen, loaded.pbuf.read 1, t.pbuf.read 1)) = some (0, some 0x69#8, none) ∧
    (after (exec .enc loaded)).map (fun t => (t.flen, loaded.fbuf.read 5, t.fbuf.read 5)) = some (5, some 0x6C#8, none) ∧
    (after (exec .hseq loaded)).isSome ∧ (after (exec (.ppush 0x00#8) loaded)).isSome ∧ (after (exec .enc halted)).map State.fault =
      some .badseq := by decide
theorem witness_NoStoreAtOrPastCapacity :
    (after (exec (.ppush 0x00#8) { loaded with plen := 1496 })).map (fun t => (t.pbuf.read 1496, t.pbuf.read 1497)) =
      some (some 0x00#8, none) := by decide
theorem witness_CommandsKeepBuffersCanonical :
    (after (exec .pld loaded)).isSome ∧ loaded.pbuf.wf ∧ loaded.fbuf.wf := by decide
/-- Two states that differ only in a byte past the length. -/
theorem witness_StaleBytesNeverMatter :
    loaded ≠ { loaded with pbuf := loaded.pbuf.write 2 0xFF#8 } ∧
    loaded.config = { loaded with pbuf := loaded.pbuf.write 2 0xFF#8 }.config ∧
    loaded.observe = { loaded with pbuf := loaded.pbuf.write 2 0xFF#8 }.observe := by decide
theorem witness_SingleBitFlipIsDetected :
    isCorrupted helloFrame = false ∧ helloFrame[0]? = some 0x00#8 ∧ helloFrame[2]? = some 0xBC#8 ∧ helloFrame[7]? = some 0x6F#8 := by
  decide
/-- V25 and V26, X16, X17, and V3 with V15 (95_test_vectors.md sections 2 and 3). -/
theorem witness_UndetectedChanges :
    ([] : List Byte).length % 2 = 0 ∧ [0x41#8].length % 2 = 1 ∧
    wordSum (words (0x00#8 :: [0x00#8])) % 65535 = wordSum (words (0x00#8 :: [0x00#8, 0x00#8, 0x00#8, 0x00#8])) % 65535 := by decide

end Sys2Proof.Tests
end

section
/-! The reset state: its registers, its empty buffers and what the host reads there (10_state.md R31, R32). -/

namespace Sys2Proof.Machine

/-! ## The fields of the reset state (10_state.md R32) -/

@[simp] theorem State.resetWith_seq (c : Config) : (State.resetWith c).seq = 0x00#8 := rfl
@[simp] theorem State.resetWith_csum (c : Config) : (State.resetWith c).csum = 0x0000#16 := rfl
@[simp] theorem State.resetWith_res (c : Config) : (State.resetWith c).res = false := rfl
@[simp] theorem State.resetWith_runt (c : Config) : (State.resetWith c).runt = false := rfl
@[simp] theorem State.resetWith_fault (c : Config) : (State.resetWith c).fault = .none := rfl
@[simp] theorem State.resetWith_fcmd (c : Config) : (State.resetWith c).fcmd = 0x00000000#32 := rfl
@[simp] theorem State.resetWith_plen (c : Config) : (State.resetWith c).plen = 0 := rfl
@[simp] theorem State.resetWith_pbuf (c : Config) : (State.resetWith c).pbuf = [] := rfl
@[simp] theorem State.resetWith_flen (c : Config) : (State.resetWith c).flen = 0 := rfl
@[simp] theorem State.resetWith_fbuf (c : Config) : (State.resetWith c).fbuf = [] := rfl

@[simp] theorem FaultCode.code_none : FaultCode.none.code = 0#2 := rfl

/-! ## A byte without a value cannot be read by the host (10_state.md R31) -/

theorem State.hostReadPayload_eq_none {s : State} {i : Nat} (h : s.pbuf.read i = none) : s.hostReadPayload i = none := by
  rw [State.hostReadPayload, h, ite_self]

theorem State.hostReadFrame_eq_none {s : State} {i : Nat} (h : s.fbuf.read i = none) : s.hostReadFrame i = none := by
  rw [State.hostReadFrame, h, ite_self]

/-- After reset no byte of either buffer has a value, so the host can read none (10_state.md R31, R32). -/
theorem State.resetWith_unreadable (c : Config) (i : Nat) :
    (State.resetWith c).pbuf.read i = none ∧ (State.resetWith c).fbuf.read i = none ∧
      (State.resetWith c).hostReadPayload i = none ∧ (State.resetWith c).hostReadFrame i = none := by
  have hp : (State.resetWith c).pbuf.read i = none := by simp
  have hf : (State.resetWith c).fbuf.read i = none := by simp
  exact ⟨hp, hf, State.hostReadPayload_eq_none hp, State.hostReadFrame_eq_none hf⟩

/-- Settles O12: the registers field by field, and the buffers by `State.resetWith_unreadable`. -/
theorem resetStateValues : Obligations.ResetStateValues := by
  refine ⟨⟨Config.default, rfl⟩, ?_⟩
  rintro c s rfl
  have hfault : (State.resetWith c).fault.code = 0#2 := by simp
  exact ⟨State.resetWith_seq c, State.resetWith_csum c, State.resetWith_res c, State.resetWith_runt c, hfault,
    State.resetWith_fcmd c, State.resetWith_plen c, State.resetWith_flen c, State.resetWith_unreadable c⟩

end Sys2Proof.Machine
end

section
/-! Decoding against the opcode table: a word decodes to a command exactly when it is that command's word, and a command's
word is the one whose mask and match hold and whose `IMM` carries the operand (30_encoding.md R53 to R55). -/

namespace Sys2Proof

/-! ## The three operand forms (30_encoding.md R55) -/

theorem imm8Form_eq_ok {mk : Byte → Instr} {imm : Half} {i : Instr} :
    imm8Form mk imm = .ok i ↔ immHigh imm = 0#8 ∧ mk (immLow imm) = i := by
  unfold imm8Form
  split <;> simp [*]

theorem noOperandForm_eq_ok {j i : Instr} {imm : Half} : noOperandForm j imm = .ok i ↔ imm = 0#16 ∧ j = i := by
  unfold noOperandForm
  split <;> simp [*]

/-- The instruction `i` is a command, and its word has operation code `op` and immediate `imm` (30_encoding.md R53). -/
def Instr.HasWord (i : Instr) (op : Byte) (imm : Half) : Prop := i.WellFormed ∧ encode i = cmdWord op imm

theorem hasWord_of_imm8Form {mk : Byte → Instr} {code op : Byte} {imm : Half} {i : Instr} (hop : op.toNat = code.toNat)
    (hmk : ∀ b, (mk b).HasWord code (b.setWidth 16)) (h : imm8Form mk imm = .ok i) : i.HasWord op imm := by
  obtain rfl := BitVec.eq_of_toNat_eq hop
  obtain ⟨hhigh, rfl⟩ := imm8Form_eq_ok.mp h
  have hword := hmk (immLow imm)
  rwa [imm_of_low hhigh] at hword

theorem hasWord_of_imm16Form {mk : Half → Instr} {code op : Byte} {imm : Half} {i : Instr} (hop : op.toNat = code.toNat)
    (hmk : ∀ c, (mk c).HasWord code c) (h : imm16Form mk imm = .ok i) : i.HasWord op imm := by
  obtain rfl := BitVec.eq_of_toNat_eq hop
  obtain rfl : mk imm = i := Except.ok.inj h
  exact hmk imm

theorem hasWord_of_noOperandForm {j i : Instr} {code op : Byte} {imm : Half} (hop : op.toNat = code.toNat)
    (hj : j.HasWord code 0#16) (h : noOperandForm j imm = .ok i) : i.HasWord op imm := by
  obtain rfl := BitVec.eq_of_toNat_eq hop
  obtain ⟨rfl, rfl⟩ := noOperandForm_eq_ok.mp h
  exact hj

/-! ## The opcode map and the encoder (30_encoding.md R54) -/

/-- What the opcode map gives has the word it was decoded from: one case for each row of the map. -/
theorem hasWord_of_decodeOp {op : Byte} {imm : Half} {i : Instr} (h : decodeOp op imm = .ok i) : i.HasWord op imm := by
  unfold decodeOp at h
  split at h <;> rename_i hop
  · exact hasWord_of_imm8Form (code := 0x01#8) hop (fun _ => ⟨rfl, rfl⟩) h
  · exact hasWord_of_imm16Form (code := 0x02#8) hop (fun _ => ⟨rfl, rfl⟩) h
  · exact hasWord_of_noOperandForm (code := 0x03#8) hop ⟨rfl, rfl⟩ h
  · exact hasWord_of_imm8Form (code := 0x04#8) hop (fun _ => ⟨rfl, rfl⟩) h
  · exact hasWord_of_noOperandForm (code := 0x05#8) hop ⟨rfl, rfl⟩ h
  · exact hasWord_of_imm8Form (code := 0x06#8) hop (fun _ => ⟨rfl, rfl⟩) h
  · exact hasWord_of_noOperandForm (code := 0x10#8) hop ⟨rfl, rfl⟩ h
  · exact hasWord_of_noOperandForm (code := 0x11#8) hop ⟨rfl, rfl⟩ h
  · exact hasWord_of_noOperandForm (code := 0x20#8) hop ⟨rfl, rfl⟩ h
  · exact hasWord_of_noOperandForm (code := 0x21#8) hop ⟨rfl, rfl⟩ h
  · exact hasWord_of_noOperandForm (code := 0x22#8) hop ⟨rfl, rfl⟩ h
  · exact hasWord_of_noOperandForm (code := 0x23#8) hop ⟨rfl, rfl⟩ h
  · exact hasWord_of_noOperandForm (code := 0x24#8) hop ⟨rfl, rfl⟩ h
  · exact hasWord_of_noOperandForm (code := 0x30#8) hop ⟨rfl, rfl⟩ h
  · exact hasWord_of_noOperandForm (code := 0x31#8) hop ⟨rfl, rfl⟩ h
  · cases h

/-- A command's word decodes to the command. -/
theorem decode_encode {i : Instr} (h : i.WellFormed) : decode (encode i) = .ok i := by
  cases i with
  | wrseq b | ppush b | fpush b => simp [encode, decode_cmdWord, decodeOp, imm8Form]
  | wrcsum c => simp [encode, decode_cmdWord, decodeOp, imm16Form]
  | frameData | frameAck0 | frameAck1 => cases h
  | _ => rfl

theorem decode_eq_ok_iff {cw : CmdWord} {i : Instr} : decode cw = .ok i ↔ i.WellFormed ∧ encode i = cw := by
  constructor
  · intro h
    unfold decode at h
    split at h
    · rename_i hrsv
      have hword := hasWord_of_decodeOp h
      rwa [Instr.HasWord, cmdWord_of_fields hrsv] at hword
    · cases h
  · rintro ⟨hwf, rfl⟩
    exact decode_encode hwf

/-! ## Mask and match (30_encoding.md R54) -/

/-- The mask that leaves the low `n` bits of a command word out. -/
def maskAbove (n : Nat) : CmdWord := BitVec.allOnes 32 <<< n

@[simp] theorem getElem_maskAbove (n i : Nat) (h : i < 32) : (maskAbove n)[i] = decide (n ≤ i) := by
  rw [maskAbove, BitVec.getElem_shiftLeft]
  by_cases hi : n ≤ i
  · rw [BitVec.getElem_allOnes]
    simp [hi]
  · simp [hi, Nat.lt_of_not_le hi]

/-- The mask keeps a match value `m` that is zero in the low `n` bits, and the bits it leaves out are the operand. -/
theorem or_operand_eq_iff {n : Nat} (hn : n ≤ 32) {m cw : CmdWord} {operand : BitVec n} (hm : m.extractLsb' 0 n = 0#n) :
    m ||| operand.setWidth 32 = cw ↔ cw &&& maskAbove n = m ∧ operand = cw.extractLsb' 0 n := by
  have hlow (i : Nat) (hi : i < n) : m[i] = false := by
    have hbit := congrArg (BitVec.getLsbD · i) hm
    simpa [hi, Nat.lt_of_lt_of_le hi hn] using hbit
  constructor
  · rintro rfl
    constructor
    · ext i h
      by_cases hi : n ≤ i
      · simp [hi]
      · simp [hi, hlow i (Nat.lt_of_not_le hi)]
    · ext i hi
      simp [hlow i hi, hi, Nat.lt_of_lt_of_le hi hn]
  · rintro ⟨rfl, rfl⟩
    ext i h
    by_cases hi : n ≤ i
    · simp [hi]
    · simp [hi, Nat.lt_of_not_le hi, BitVec.getLsbD_eq_getElem h]

theorem cmdWord_eq_or (op : Byte) (imm : Half) : cmdWord op imm = cmdWord op 0#16 ||| imm.setWidth 32 := by
  simp [cmdWord]

/-- `imm8` as bits of the command word (30_encoding.md R53, R55). -/
theorem immLow_immField (cw : CmdWord) : immLow (immField cw) = cw.extractLsb' 0 8 := by
  simp [immLow, immField]

/-- A command without an operand: the mask keeps the whole word. -/
theorem decode_noOperand_iff {i : Instr} {m : CmdWord} (hi : i.WellFormed) (hm : encode i = m) (cw : CmdWord) :
    decode cw = .ok i ↔ cw &&& 0xFFFFFFFF#32 = m := by
  rw [decode_eq_ok_iff, hm, show cw &&& 0xFFFFFFFF#32 = cw from BitVec.and_allOnes]
  exact ⟨fun h => h.2.symm, fun h => ⟨hi, h.symm⟩⟩

/-- A command with an `imm8`: the mask leaves the low 8 bits out, which are the operand. -/
theorem decode_imm8_iff {mk : Byte → Instr} {op : Byte} (hmk : ∀ b, (mk b).HasWord op (b.setWidth 16))
    (cw : CmdWord) (b : Byte) :
    decode cw = .ok (mk b) ↔ cw &&& 0xFFFFFF00#32 = cmdWord op 0#16 ∧ b = cw.extractLsb' 0 8 := by
  obtain ⟨hwf, henc⟩ := hmk b
  have hword : encode (mk b) = cmdWord op 0#16 ||| b.setWidth 32 := by
    rw [henc, cmdWord_eq_or, BitVec.setWidth_setWidth (by decide)]
  have hlow : (cmdWord op 0#16).extractLsb' 0 8 = 0#8 := by
    rw [← immLow_immField, immField_cmdWord]
    rfl
  rw [decode_eq_ok_iff, hword, or_operand_eq_iff (by decide) hlow]
  exact ⟨fun h => h.2, fun h => ⟨hwf, h⟩⟩

theorem decode_imm16_iff {mk : Half → Instr} {op : Byte} (hmk : ∀ c, (mk c).HasWord op c)
    (cw : CmdWord) (c : Half) :
    decode cw = .ok (mk c) ↔ cw &&& 0xFFFF0000#32 = cmdWord op 0#16 ∧ c = cw.extractLsb' 0 16 := by
  obtain ⟨hwf, henc⟩ := hmk c
  rw [decode_eq_ok_iff, henc, cmdWord_eq_or, or_operand_eq_iff (by decide) (immField_cmdWord op 0#16)]
  exact ⟨fun h => h.2, fun h => ⟨hwf, h⟩⟩

/-- Settles O3: the 15 rows of the opcode table, each by the lemma of its operand form. -/
theorem maskAndMatchSelectTheCommand : Obligations.MaskAndMatchSelectTheCommand := fun cw =>
  ⟨decode_imm8_iff (op := 0x01#8) (fun _ => ⟨rfl, rfl⟩) cw,
   decode_imm16_iff (op := 0x02#8) (fun _ => ⟨rfl, rfl⟩) cw,
   decode_noOperand_iff rfl rfl cw,
   decode_imm8_iff (op := 0x04#8) (fun _ => ⟨rfl, rfl⟩) cw,
   decode_noOperand_iff rfl rfl cw,
   decode_imm8_iff (op := 0x06#8) (fun _ => ⟨rfl, rfl⟩) cw,
   decode_noOperand_iff rfl rfl cw, decode_noOperand_iff rfl rfl cw, decode_noOperand_iff rfl rfl cw,
   decode_noOperand_iff rfl rfl cw, decode_noOperand_iff rfl rfl cw, decode_noOperand_iff rfl rfl cw,
   decode_noOperand_iff rfl rfl cw, decode_noOperand_iff rfl rfl cw, decode_noOperand_iff rfl rfl cw⟩

end Sys2Proof
end

section
/-! The words of a byte sequence, their sum and the checksum (40_checksum_codec.md R61 to R64), and the commands `CSUM` and
`VRFY` (R73, R74). -/

namespace Sys2Proof.Machine

/-! ## The words of a byte sequence (R61) -/

@[simp] theorem words_nil : words [] = [] := rfl

/-- The last odd byte is the high byte of its word (00_scope.md R10). -/
@[simp] theorem words_singleton (b : Byte) : words [b] = [word b 0#8] := rfl

@[simp] theorem words_cons_cons (h l : Byte) (bs : List Byte) : words (h :: l :: bs) = word h l :: words bs := rfl

theorem words_length (bs : List Byte) : (words bs).length = (bs.length + 1) / 2 := by
  induction bs using List.twoStepInduction with
  | nil => rfl
  | singleton b => simp
  | cons_cons h l bs ih _ =>
    simp only [words_cons_cons, List.length_cons, ih]
    omega

theorem words_getElem? {bs : List Byte} {k : Nat} (hk : 2 * k < bs.length) :
    (words bs)[k]? = some (word (bs.getD (2 * k) 0#8) (bs.getD (2 * k + 1) 0#8)) := by
  induction bs using List.twoStepInduction generalizing k with
  | nil => cases hk
  | singleton b =>
    obtain rfl : k = 0 := by simpa using hk
    rfl
  | cons_cons h l bs ih _ =>
    cases k with
    | zero => rfl
    | succ k =>
      have hk' : 2 * k < bs.length := by
        simp only [List.length_cons] at hk
        omega
      exact ih hk'

/-- Settles O28, by `words_length` and `words_getElem?`. -/
theorem wordsReadTheBytesBigEndian : Obligations.WordsReadTheBytesBigEndian := by
  refine ⟨words_nil, fun bs => ⟨words_length bs, fun k hk => ?_⟩⟩
  have hk' : 2 * k < bs.length := by
    rw [words_length] at hk
    omega
  rw [words_getElem? hk', Option.map_some, word_toNat]

/-! ## The sum, reduced once or after every addition (R62) -/

theorem sum_map_toNat (ws : List Half) : (ws.map BitVec.toNat).sum = wordSum ws := by
  induction ws with
  | nil => rfl
  | cons w ws ih => rw [List.map_cons, List.sum_cons, ih, wordSum]

theorem foldl_reducing_eq (ws : List Half) (a : Nat) :
    ws.foldl (fun a w => (a + w.toNat) % 65535) (a % 65535) = (a + wordSum ws) % 65535 := by
  induction ws generalizing a with
  | nil => rfl
  | cons w ws ih => rw [List.foldl_cons, Nat.mod_add_mod, ih, wordSum, Nat.add_assoc]

/-! ## The end-around-carry sum (R62) -/

/-- One 16-bit addition whose carry is added back in at the low end. -/
def endAroundAdd (a : Nat) (w : Half) : Nat := if a + w.toNat < 65536 then a + w.toNat else a + w.toNat - 65535

/-- How an end-around-carry accumulator `a` stands to the unreduced sum `n`: a 16-bit number of the same residue, which is 0
only while nothing but zeros was added. -/
structure EndAroundOf (n a : Nat) : Prop where
  le : a ≤ 65535
  mod_eq : a % 65535 = n % 65535
  zero_iff : a = 0 ↔ n = 0

theorem EndAroundOf.add {n a : Nat} (h : EndAroundOf n a) (w : Half) : EndAroundOf (n + w.toNat) (endAroundAdd a w) := by
  obtain ⟨hle, hmod, hzero⟩ := h
  have hw := w.isLt
  unfold endAroundAdd
  split <;> constructor <;> omega

theorem EndAroundOf.foldl {n a : Nat} (h : EndAroundOf n a) (ws : List Half) :
    EndAroundOf (n + wordSum ws) (ws.foldl endAroundAdd a) := by
  induction ws generalizing n a with
  | nil => exact h
  | cons w ws ih =>
    rw [List.foldl_cons, wordSum, ← Nat.add_assoc]
    exact ih (h.add w)

/-- The two representations of 0 are the only difference from the reduced sum. -/
theorem EndAroundOf.ne_mod_iff {n a : Nat} (h : EndAroundOf n a) : a ≠ n % 65535 ↔ n ≠ 0 ∧ n % 65535 = 0 := by
  obtain ⟨hle, hmod, hzero⟩ := h
  omega

theorem EndAroundOf.eq_of_ne_mod {n a : Nat} (h : EndAroundOf n a) (hne : a ≠ n % 65535) : a = 0xFFFF ∧ n % 65535 = 0 := by
  obtain ⟨hle, hmod, -⟩ := h
  omega

theorem endAroundOf_words (bs : List Byte) : EndAroundOf (wordSum (words bs)) ((words bs).foldl endAroundAdd 0) := by
  have hstart : EndAroundOf 0 0 := ⟨Nat.zero_le _, rfl, Iff.rfl⟩
  simpa using hstart.foldl (words bs)

/-- Settles O29: the reducing fold by `foldl_reducing_eq`, the end-around-carry one by its invariant `EndAroundOf`. -/
theorem sumIsModulo65535 : Obligations.SumIsModulo65535 := by
  refine ⟨rfl, fun bs => ⟨?_, sum16_lt bs, ?_, (endAroundOf_words bs).ne_mod_iff, (endAroundOf_words bs).eq_of_ne_mod⟩⟩
  · rw [sum_map_toNat, sum16]
  · simpa [sum16] using foldl_reducing_eq (words bs) 0

/-! ## The checksum (R63) -/

theorem checksum_eq_not (seq : Byte) (p : List Byte) : checksum seq p = ~~~(BitVec.ofNat 16 (sum16 (seq :: p))) := by
  have hlt := sum16_lt (seq :: p)
  apply BitVec.eq_of_toNat_eq
  rw [checksum_toNat, BitVec.toNat_not, BitVec.toNat_ofNat, Nat.mod_eq_of_lt (by omega)]

theorem words_cons_head? (b : Byte) (bs : List Byte) : (words (b :: bs)).head? = some (word b (bs.headD 0#8)) := by
  cases bs with
  | nil | cons => rfl

/-- Settles O30; the checksum is at least 1 because the sum is at most 65534. -/
theorem checksumIsTheComplement : Obligations.ChecksumIsTheComplement := by
  intro seq p
  have hpos : 1 ≤ (checksum seq p).toNat := by
    have hlt := sum16_lt (seq :: p)
    rw [checksum_toNat]
    omega
  exact ⟨checksum_toNat seq p, checksum_eq_not seq p, hpos, words_cons_head? seq p⟩

/-! ## `CSUM` (R73) -/

theorem exec_csum_eq {s : State} {p : List Byte} (hs : s.fault = .none) (hp : s.payload = some p) :
    exec .csum s = .next { s with csum := checksum s.seq p } := by
  rw [exec, execCsum, whileRunning_running _ hs, withPayload_some _ hp]

/-- Settles O34: the effect by `exec_csum_eq`, the spec's values by evaluation. -/
theorem csumComputesTheChecksum : Obligations.CsumComputesTheChecksum :=
  ⟨rfl, fun _ _ hs hp => exec_csum_eq hs hp, by decide, by decide, by decide⟩

/-! ## `VRFY` (R64, R74) -/

theorem verify_eq_decide (seq : Byte) (p : List Byte) (c : Half) :
    verify seq p c = decide (sum16 (seq :: p) + c.toNat = 65535) := rfl

/-- No sum reaches 65535, so a stored 0x0000 is never accepted. -/
theorem verify_zero (seq : Byte) (p : List Byte) : verify seq p 0x0000#16 = false := by
  rw [verify_eq_decide]
  exact decide_eq_false (Nat.ne_of_lt (sum16_lt (seq :: p)))

theorem exec_vrfy_eq {s : State} {p : List Byte} (hs : s.fault = .none) (hp : s.payload = some p) :
    exec .vrfy s = .next (s.setRes (verify s.seq p s.csum)) := by
  rw [exec, execVrfy, whileRunning_running _ hs, withPayload_some _ hp]

theorem exec_vrfy_res_of_csum_zero {s t : State} (hs : s.fault = .none) (h : exec .vrfy s = .next t)
    (hc : s.csum = 0x0000#16) : t.res = false := by
  obtain ⟨p, -, rfl⟩ := exec_running_next hs h
  rw [State.setRes_res, hc, verify_zero]

/-- Settles O35: the effect by `exec_vrfy_eq`, `CSUM = 0` by `verify_zero`, the spec's values by evaluation. -/
theorem vrfyTestsTheChecksum : Obligations.VrfyTestsTheChecksum :=
  ⟨rfl, by decide, verify_eq_decide, fun _ _ hs hp => exec_vrfy_eq hs hp,
    fun _ _ hs h hc => exec_vrfy_res_of_csum_zero hs h hc⟩

end Sys2Proof.Machine
end

section
/-! The packet framer: its functions on runts and on frames of 3 bytes or more (41_packet_framer.md R75 to R80), and the
commands `ENC`, `HSEQ`, `ISACK`, `PLD` and `ISCOR` (R83 to R87). -/

namespace Sys2Proof.Machine

/-! ## Runts (R80) -/

theorem isCorrupted_of_runt {raw : List Byte} (h : raw.length < headerLen) : isCorrupted raw = true := by
  match raw, h with
  | [], _ | [_], _ | [_, _], _ => rfl

theorem hasSeq_of_runt {raw : List Byte} (h : raw.length < headerLen) (seq : Byte) : hasSeq seq raw = false := by
  match raw, h with
  | [], _ | [_], _ | [_, _], _ => rfl

theorem isAck_of_runt {raw : List Byte} (h : raw.length < headerLen) (seq : Byte) : isAck raw seq = false := by
  rw [isAck, hasSeq_of_runt h, Bool.false_and]

theorem payloadOf_of_runt {raw : List Byte} (h : raw.length < headerLen) : payloadOf raw = [] :=
  List.drop_eq_nil_of_le (Nat.le_of_lt h)

/-- Settles O41: one lemma for each of the four functions. -/
theorem runtFramesAreCorrupted : Obligations.RuntFramesAreCorrupted := fun _ h =>
  ⟨isCorrupted_of_runt h, hasSeq_of_runt h, isAck_of_runt h, payloadOf_of_runt h⟩

/-! ## Frames of 3 bytes or more (R75 to R79) -/

@[simp] theorem encodeFrame_length (seq : Byte) (p : List Byte) (c : Half) :
    (encodeFrame seq p c).length = p.length + headerLen := rfl

theorem encodeFrame_payload_getElem? (seq : Byte) (p : List Byte) (c : Half) (i : Nat) :
    (encodeFrame seq p c)[3 + i]? = p[i]? := by
  rw [Nat.add_comm]
  rfl

@[simp] theorem payloadOf_length (raw : List Byte) : (payloadOf raw).length = raw.length - headerLen := List.length_drop

theorem payloadOf_getElem? (raw : List Byte) (i : Nat) : (payloadOf raw)[i]? = raw[3 + i]? := List.getElem?_drop

theorem hasSeq_iff {raw : List Byte} (h : 3 ≤ raw.length) (seq : Byte) : hasSeq seq raw = true ↔ raw[0]? = some seq := by
  match raw, h with
  | s :: _ :: _ :: _, _ => simp [hasSeq]

theorem isAck_iff_marker (raw : List Byte) (seq : Byte) :
    isAck raw seq = true ↔ hasSeq seq raw = true ∧ payloadOf raw = ackMarker := by
  rw [isAck, Bool.and_eq_true, beq_iff_eq]

/-- Equality with the marker compares the whole list: its length and each of its three bytes (00_scope.md R9). -/
theorem eq_ackMarker_iff (p : List Byte) :
    p = ackMarker ↔ p.length = 3 ∧ p[0]? = some 0x41#8 ∧ p[1]? = some 0x43#8 ∧ p[2]? = some 0x4B#8 := by
  constructor
  · rintro rfl
    exact ⟨rfl, rfl, rfl, rfl⟩
  · rintro ⟨hlen, h0, h1, h2⟩
    obtain ⟨a, b, c, rfl⟩ := List.length_eq_three.mp hlen
    cases h0
    cases h1
    cases h2
    rfl

theorem isAck_iff_bytes {raw : List Byte} (h : 3 ≤ raw.length) (seq : Byte) :
    isAck raw seq = true ↔ raw.length = 6 ∧ raw[0]? = some seq ∧ raw[3]? = some 0x41#8 ∧ raw[4]? = some 0x43#8 ∧
      raw[5]? = some 0x4B#8 := by
  have hlen : raw.length - headerLen = 3 ↔ raw.length = 6 := Nat.sub_eq_iff_eq_add h
  rw [isAck_iff_marker, hasSeq_iff h, eq_ackMarker_iff, payloadOf_length, hlen]
  simp only [payloadOf_getElem?, Nat.reduceAdd]
  exact and_left_comm

/-- Settles O39, by `isAck_iff_marker` and `isAck_iff_bytes`. -/
theorem isAckExaminesTheWholePayload : Obligations.IsAckExaminesTheWholePayload := fun raw seq h =>
  ⟨isAck_iff_marker raw seq, isAck_iff_bytes h seq⟩

theorem isCorrupted_eq_decide (b0 b1 b2 : Byte) (p : List Byte) :
    isCorrupted (b0 :: b1 :: b2 :: p) = decide (checksum b0 p ≠ word b1 b2) := by
  rw [isCorrupted, bne, beq_eq_decide, decide_not]

theorem checksum_ne_zero (seq : Byte) (p : List Byte) : checksum seq p ≠ 0x0000#16 := by
  intro h
  have hlt := sum16_lt (seq :: p)
  have hsum := checksum_toNat seq p
  rw [h, BitVec.toNat_ofNat] at hsum
  omega

/-- No checksum is 0x0000, so a frame that stores it is corrupted (R79). -/
theorem isCorrupted_of_stored_zero (b0 : Byte) (p : List Byte) : isCorrupted (b0 :: 0x00#8 :: 0x00#8 :: p) = true := by
  rw [isCorrupted_eq_decide]
  exact decide_eq_true (checksum_ne_zero b0 p)

/-! ## The operands as bytes of the buffers -/

theorem State.read_of_payload {s : State} {p : List Byte} {i : Nat} (hp : s.payload = some p) (hi : i < s.plen) :
    s.pbuf.read i = p[i]? := by
  simpa using Memory.read_of_readFrom hp i hi

theorem State.read_of_frame {s : State} {f : List Byte} {i : Nat} (hf : s.frame = some f) (hi : i < s.flen) :
    s.fbuf.read i = f[i]? := by
  simpa using Memory.read_of_readFrom hf i hi

/-! ## `ENC` (R83) -/

theorem exec_enc_of_seq_gt {s : State} (hs : s.fault = .none) (hseq : 1 < s.seq.toNat) :
    exec .enc s = .next (s.raise .badseq (encode .enc)) := by
  rw [exec, execEnc, whileRunning_running _ hs, withSendableSeq_next]
  exact Or.inl ⟨hseq, rfl⟩

theorem exec_enc_eq {s : State} {p : List Byte} (hs : s.fault = .none) (hseq : s.seq.toNat ≤ 1) (hp : s.payload = some p)
    (hfit : (encodeFrame s.seq p s.csum).length ≤ s.config.maxFrame) :
    exec .enc s = .next (s.loadFrame (encodeFrame s.seq p s.csum)) := by
  rw [exec, execEnc, whileRunning_running _ hs, withSendableSeq_next, withPayload_some _ hp, storeFrame_next]
  exact Or.inr ⟨hseq, hfit, rfl⟩

/-- Settles O43: a payload of at most `MAX_PAYLOAD` bytes makes a frame that fits, and the buffer then holds the bytes of
`encodeFrame` and no others. -/
theorem encBuildsTheFrame : Obligations.EncBuildsTheFrame := by
  refine ⟨rfl, fun s hs => ⟨exec_enc_of_seq_gt hs, fun p hvalid hseq hp hplen => ?_⟩⟩
  have hlen : (encodeFrame s.seq p s.csum).length = s.plen + 3 := by
    rw [encodeFrame_length, State.payload_length hp]
  have hfit : (encodeFrame s.seq p s.csum).length ≤ s.config.maxFrame := by
    rw [hlen, ← hvalid.maxPayload_add]
    exact Nat.add_le_add_right hplen headerLen
  refine ⟨_, exec_enc_eq hs hseq hp hfit, rfl, ?_, State.frame_loadFrame hfit, ?_⟩
  · rw [State.flen_loadFrame hfit, hlen]
  · simp only [State.read_loadFrame]
    refine ⟨rfl, rfl, rfl, fun i hi => ?_, fun a ha => List.getElem?_eq_none (hlen ▸ ha)⟩
    rw [encodeFrame_payload_getElem?, State.read_of_payload hp hi]

/-! ## The commands that examine a frame (R84 to R87) -/

theorem examineFrame_of_runt {s : State} (onRunt : State → Outcome) (onFrame : List Byte → State → Outcome)
    (h : s.FrameIsRunt) : examineFrame s onRunt onFrame = onRunt (s.setRunt true) := if_pos h

theorem examineFrame_of_frame {s : State} {f : List Byte} (onRunt : State → Outcome) (onFrame : List Byte → State → Outcome)
    (hf : s.frame = some f) (h : headerLen ≤ s.flen) : examineFrame s onRunt onFrame = onFrame f (s.setRunt false) := by
  rw [examineFrame, if_neg (Nat.not_lt.mpr h), withFrame_some _ hf]

/-! ## `HSEQ` (R84) -/

theorem exec_hseq_of_runt {s : State} (hs : s.fault = .none) (h : s.FrameIsRunt) :
    exec .hseq s = .next ((s.setRunt true).setRes false) := by
  rw [exec, execHseq, whileRunning_running _ hs, examineFrame_of_runt _ _ h]

theorem exec_hseq_of_frame {s : State} {f : List Byte} (hs : s.fault = .none) (hf : s.frame = some f)
    (h : headerLen ≤ s.flen) : exec .hseq s = .next ((s.setRunt false).setRes (hasSeq s.seq f)) := by
  rw [exec, execHseq, whileRunning_running _ hs, examineFrame_of_frame _ _ hf h]

theorem hasSeq_eq_decide_read {s : State} {f : List Byte} (hf : s.frame = some f) (h : 3 ≤ s.flen) :
    hasSeq s.seq f = decide (s.fbuf.read 0 = some s.seq) := by
  have hlen : 3 ≤ f.length := State.frame_length hf ▸ h
  rw [Bool.eq_iff_iff, decide_eq_true_iff, hasSeq_iff hlen, State.read_of_frame hf (by omega)]

/-- Settles O44, by the two effects and `hasSeq_eq_decide_read`. -/
theorem hseqComparesTheTag : Obligations.HseqComparesTheTag := by
  refine ⟨rfl, fun s hs => ⟨exec_hseq_of_runt hs, fun f hf h => ?_⟩⟩
  rw [exec_hseq_of_frame hs hf h, hasSeq_eq_decide_read hf h]
  rfl

/-! ## `ISACK` (R85) -/

theorem exec_isack_of_runt {s : State} (hs : s.fault = .none) (h : s.FrameIsRunt) :
    exec .isack s = .next ((s.setRunt true).setRes false) := by
  rw [exec, execIsack, whileRunning_running _ hs, examineFrame_of_runt _ _ h]

theorem exec_isack_of_frame {s : State} {f : List Byte} (hs : s.fault = .none) (hf : s.frame = some f)
    (h : headerLen ≤ s.flen) : exec .isack s = .next ((s.setRunt false).setRes (isAck f s.seq)) := by
  rw [exec, execIsack, whileRunning_running _ hs, examineFrame_of_frame _ _ hf h]

/-- The offsets 3 to 5 are below the length only in a frame of 6 bytes, so the length is compared first. -/
theorem isAck_eq_decide_read {s : State} {f : List Byte} (hf : s.frame = some f) (h : 3 ≤ s.flen) :
    isAck f s.seq = decide (s.flen = 6 ∧ s.fbuf.read 0 = some s.seq ∧ s.fbuf.read 3 = some 0x41#8 ∧
      s.fbuf.read 4 = some 0x43#8 ∧ s.fbuf.read 5 = some 0x4B#8) := by
  have hlen := State.frame_length hf
  rw [Bool.eq_iff_iff, decide_eq_true_iff, isAck_iff_bytes (hlen ▸ h), hlen]
  refine and_congr_right fun h6 => ?_
  have hread (i : Nat) (hi : i < 6) : s.fbuf.read i = f[i]? := State.read_of_frame hf (h6 ▸ hi)
  rw [hread 0 (by decide), hread 3 (by decide), hread 4 (by decide), hread 5 (by decide)]

/-- Settles O45, by the two effects and `isAck_eq_decide_read`. -/
theorem isackRecognisesTheAck : Obligations.IsackRecognisesTheAck := by
  refine ⟨rfl, fun s hs => ⟨exec_isack_of_runt hs, fun f hf h => ?_⟩⟩
  rw [exec_isack_of_frame hs hf h, isAck_eq_decide_read hf h]
  rfl

/-! ## `PLD` (R86) -/

theorem exec_pld_of_runt {s : State} (hs : s.fault = .none) (h : s.FrameIsRunt) :
    exec .pld s = .next ((s.setRunt true).loadPayload []) := by
  rw [exec, execPld, whileRunning_running _ hs, examineFrame_of_runt _ _ h]

theorem exec_pld_of_frame {s : State} {f : List Byte} (hs : s.fault = .none) (hf : s.frame = some f) (h : headerLen ≤ s.flen)
    (hfit : (payloadOf f).length ≤ s.config.maxPayload) :
    exec .pld s = .next ((s.setRunt false).loadPayload (payloadOf f)) := by
  rw [exec, execPld, whileRunning_running _ hs, examineFrame_of_frame _ _ hf h, storePayload_next]
  exact ⟨hfit, rfl⟩

/-- Settles O46: the payload of a frame that fits `FBUF` fits `PBUF`, which then holds it and no other byte. -/
theorem pldCopiesThePayload : Obligations.PldCopiesThePayload := by
  refine ⟨rfl, fun s hs => ⟨fun h => ?_, fun f hf h hmax => ?_⟩⟩
  · have hempty : ((s.setRunt true).loadPayload []).plen = 0 := State.plen_loadPayload (Nat.zero_le _)
    refine ⟨_, exec_pld_of_runt hs h, ?_, State.payload_loadPayload (Nat.zero_le _), Memory.read_nil⟩
    rw [← hempty]
    rfl
  · have hlen : (payloadOf f).length = s.flen - 3 := by rw [payloadOf_length, State.frame_length hf]
    have hfit : (payloadOf f).length ≤ (s.setRunt false).config.maxPayload := hlen ▸ Nat.sub_le_sub_right hmax headerLen
    refine ⟨_, exec_pld_of_frame hs hf h hfit, rfl, ?_, State.payload_loadPayload hfit, ?_⟩
    · rw [State.plen_loadPayload hfit, hlen]
    · simp only [State.read_loadPayload]
      refine ⟨fun i hi => ?_, fun a ha => List.getElem?_eq_none (hlen ▸ ha)⟩
      rw [payloadOf_getElem?, State.read_of_frame hf (by omega)]

/-! ## `ISCOR` (R87) -/

theorem exec_iscor_of_runt {s : State} (hs : s.fault = .none) (h : s.FrameIsRunt) :
    exec .iscor s = .next ((s.setRunt true).setRes true) := by
  rw [exec, execIscor, whileRunning_running _ hs, examineFrame_of_runt _ _ h]

theorem exec_iscor_of_frame {s : State} {f : List Byte} (hs : s.fault = .none) (hf : s.frame = some f)
    (h : headerLen ≤ s.flen) : exec .iscor s = .next ((s.setRunt false).setRes (isCorrupted f)) := by
  rw [exec, execIscor, whileRunning_running _ hs, examineFrame_of_frame _ _ hf h]

/-- Settles O47: the two effects, the stored 0x0000 by `isCorrupted_of_stored_zero`, the spec's values by evaluation. -/
theorem iscorReportsCorruption : Obligations.IscorReportsCorruption := by
  refine ⟨rfl, fun s hs => ⟨exec_iscor_of_runt hs, fun b0 b1 b2 p hf => ?_⟩, isCorrupted_of_stored_zero,
    by decide, by decide, by decide, by decide⟩
  have h : headerLen ≤ s.flen := by
    rw [← State.frame_length hf]
    exact Nat.le_add_left ..
  rw [exec_iscor_of_frame hs hf h, isCorrupted_eq_decide]
  rfl

end Sys2Proof.Machine
end

section
/-! The operand-loading commands `WRSEQ`, `WRCSUM`, `PCLR`, `PPUSH`, `FCLR` and `FPUSH` (42_operand_commands.md R89 to R94): their
words, which words of theirs are malformed, and their effects in a running block. -/

namespace Sys2Proof

/-! ## Words with an operand, and malformed words (30_encoding.md R53, R55) -/

theorem cmdWord_imm8_eq_or (op : Byte) (b : Byte) : cmdWord op (b.setWidth 16) = cmdWord op 0#16 ||| b.setWidth 32 := by
  rw [cmdWord_eq_or, BitVec.setWidth_setWidth (by decide)]

/-- `IMM[15:8]` as bits of the command word. -/
theorem immHigh_immField (cw : CmdWord) : immHigh (immField cw) = cw.extractLsb' 8 8 := by
  simp [immHigh, immField]

theorem decode_of_rsvField_ne {cw : CmdWord} (h : rsvField cw ≠ 0#8) : decode cw = .error .reservedNotZero := if_neg h

theorem decode_of_opField {cw : CmdWord} {op : Byte} (hop : opField cw = op) (hrsv : rsvField cw = 0#8) :
    decode cw = decodeOp op (immField cw) := by
  rw [decode, if_pos hrsv, hop]

theorem imm8Form_of_immHigh_ne {imm : Half} (mk : Byte → Instr) (h : immHigh imm ≠ 0#8) :
    imm8Form mk imm = .error .unusedImmNotZero := if_neg h

theorem decode_wrseq_malformed {cw : CmdWord} (hop : opField cw = 0x01#8)
    (h : rsvField cw ≠ 0#8 ∨ cw.extractLsb' 8 8 ≠ 0#8) : ∃ x, decode cw = .error x := by
  by_cases hrsv : rsvField cw = 0#8
  · have himm : immHigh (immField cw) ≠ 0#8 := immHigh_immField cw ▸ h.resolve_left (not_not_intro hrsv)
    exact ⟨_, (decode_of_opField hop hrsv).trans (imm8Form_of_immHigh_ne .wrseq himm)⟩
  · exact ⟨_, decode_of_rsvField_ne hrsv⟩

/-- `WRCSUM` uses all of `IMM`, so only `RSV` can make its word malformed. -/
theorem decode_wrcsum_malformed_iff {cw : CmdWord} (hop : opField cw = 0x02#8) :
    (∃ x, decode cw = .error x) ↔ rsvField cw ≠ 0#8 := by
  constructor
  · rintro ⟨x, hx⟩ hrsv
    have hok : decode cw = .ok (.wrcsum (immField cw)) := decode_of_opField hop hrsv
    rw [hok] at hx
    cases hx
  · exact fun hrsv => ⟨_, decode_of_rsvField_ne hrsv⟩

end Sys2Proof

namespace Sys2Proof.Machine

/-! ## `WRSEQ` and `WRCSUM` (R89, R90) -/

theorem exec_wrseq_eq {s : State} (hs : s.fault = .none) (b : Byte) : exec (.wrseq b) s = .next { s with seq := b } := by
  rw [exec, execWrseq, whileRunning_running _ hs]

theorem exec_wrcsum_eq {s : State} (hs : s.fault = .none) (c : Half) : exec (.wrcsum c) s = .next { s with csum := c } := by
  rw [exec, execWrcsum, whileRunning_running _ hs]

/-- Settles O22, by the word's operand form, `exec_wrseq_eq` and `decode_wrseq_malformed`. -/
theorem wrseqLoadsTheTag : Obligations.WrseqLoadsTheTag :=
  ⟨cmdWord_imm8_eq_or 0x01#8, fun _ b hs => exec_wrseq_eq hs b, fun _ hop h => decode_wrseq_malformed hop h⟩

/-- Settles O23, by the word's operand form, `exec_wrcsum_eq` and `decode_wrcsum_malformed_iff`. -/
theorem wrcsumLoadsTheChecksum : Obligations.WrcsumLoadsTheChecksum :=
  ⟨cmdWord_eq_or 0x02#8, fun _ c hs => exec_wrcsum_eq hs c, fun _ hop => decode_wrcsum_malformed_iff hop⟩

/-! ## `PCLR` and `FCLR` (R91, R93) -/

theorem State.loadPayload_nil (s : State) : s.loadPayload [] = { s with plen := 0, pbuf := [] } := by
  rw [State.loadPayload, List.length_nil, Config.toLen_zero, Memory.ofBytes]

theorem State.loadFrame_nil (s : State) : s.loadFrame [] = { s with flen := 0, fbuf := [] } := by
  rw [State.loadFrame, List.length_nil, Config.toLen_zero, Memory.ofBytes]

theorem exec_pclr_eq {s : State} (hs : s.fault = .none) : exec .pclr s = .next { s with plen := 0, pbuf := [] } := by
  rw [exec, execPclr, whileRunning_running _ hs, State.loadPayload_nil]

theorem exec_fclr_eq {s : State} (hs : s.fault = .none) : exec .fclr s = .next { s with flen := 0, fbuf := [] } := by
  rw [exec, execFclr, whileRunning_running _ hs, State.loadFrame_nil]

/-- Settles O24: the next state's `PBUF` lists no byte, so none can be read. -/
theorem pclrEmptiesThePayload : Obligations.PclrEmptiesThePayload :=
  ⟨rfl, fun _ hs => ⟨_, exec_pclr_eq hs, rfl, rfl,
    fun a => ⟨Memory.read_nil a, State.hostReadPayload_eq_none (Memory.read_nil a)⟩⟩⟩

/-- Settles O26: the next state's `FBUF` lists no byte, so none can be read. -/
theorem fclrEmptiesTheFrame : Obligations.FclrEmptiesTheFrame :=
  ⟨rfl, fun _ hs => ⟨_, exec_fclr_eq hs, rfl, rfl,
    fun a => ⟨Memory.read_nil a, State.hostReadFrame_eq_none (Memory.read_nil a)⟩⟩⟩

/-! ## `PPUSH` (R92) -/

/-- Below `MAX_PAYLOAD` the length register holds the new length as it is. -/
theorem State.appendPayload_eq {s : State} (b : Byte) (h : s.plen < s.config.maxPayload) :
    s.appendPayload b = { s with plen := s.plen + 1, pbuf := s.pbuf.write s.plen b } := by
  rw [State.appendPayload, Config.toLen_of_le (Nat.le_trans h s.config.maxPayload_le)]

theorem exec_ppush_of_full {s : State} (hs : s.fault = .none) (b : Byte) (h : s.plen = s.config.maxPayload) :
    exec (.ppush b) s = .next (s.raise .oversize (encode (.ppush b))) := by
  rw [exec, execPpush, whileRunning_running _ hs, pushPayload_next]
  exact Or.inl ⟨h, rfl⟩

theorem exec_ppush_of_lt {s : State} (hs : s.fault = .none) (b : Byte) (h : s.plen < s.config.maxPayload) :
    exec (.ppush b) s = .next (s.appendPayload b) := by
  rw [exec, execPpush, whileRunning_running _ hs, pushPayload_next]
  exact Or.inr ⟨h, rfl⟩

/-- Settles O25: the two effects; the state after the last push that fits is running and full, so the next push faults by the
first of them. -/
theorem ppushAppendsOrFaults : Obligations.PpushAppendsOrFaults := by
  refine fun s b hs => ⟨cmdWord_imm8_eq_or 0x04#8 b, exec_ppush_of_full hs b, fun h => ?_⟩
  have hplen : (s.appendPayload b).plen = s.plen + 1 := congrArg State.plen (State.appendPayload_eq b h)
  exact ⟨_, exec_ppush_of_lt hs b h, State.appendPayload_eq b h, Memory.read_write_same _ _ _,
    fun _ ha => Memory.read_write_other _ _ ha, fun _ hp => State.payload_appendPayload b hp h,
    fun hlast b' => exec_ppush_of_full (s := s.appendPayload b) hs b' (hplen.trans hlast)⟩

/-! ## `FPUSH` (R94) -/

/-- Below `MAX_FRAME` the length register holds the new length as it is. -/
theorem State.appendFrame_eq {s : State} (b : Byte) (h : s.flen < s.config.maxFrame) :
    s.appendFrame b = { s with flen := s.flen + 1, fbuf := s.fbuf.write s.flen b } := by
  rw [State.appendFrame, Config.toLen_of_le h]

theorem exec_fpush_of_full {s : State} (hs : s.fault = .none) (b : Byte) (h : s.flen = s.config.maxFrame) :
    exec (.fpush b) s = .next (s.raise .oversize (encode (.fpush b))) := by
  rw [exec, execFpush, whileRunning_running _ hs, pushFrame_next]
  exact Or.inl ⟨h, rfl⟩

theorem exec_fpush_of_lt {s : State} (hs : s.fault = .none) (b : Byte) (h : s.flen < s.config.maxFrame) :
    exec (.fpush b) s = .next (s.appendFrame b) := by
  rw [exec, execFpush, whileRunning_running _ hs, pushFrame_next]
  exact Or.inr ⟨h, rfl⟩

/-- Settles O27: the two effects; the state after the last push that fits is running and full, so the next push faults by the
first of them. -/
theorem fpushAppendsOrFaults : Obligations.FpushAppendsOrFaults := by
  refine fun s b hs => ⟨cmdWord_imm8_eq_or 0x06#8 b, exec_fpush_of_full hs b, fun h => ?_⟩
  have hflen : (s.appendFrame b).flen = s.flen + 1 := congrArg State.flen (State.appendFrame_eq b h)
  exact ⟨_, exec_fpush_of_lt hs b h, State.appendFrame_eq b h, Memory.read_write_same _ _ _,
    fun _ ha => Memory.read_write_other _ _ ha, fun _ hf => State.frame_appendFrame b hf h,
    fun hlast b' => exec_fpush_of_full (s := s.appendFrame b) hs b' (hflen.trans hlast)⟩

end Sys2Proof.Machine
end

section
/-! The composite commands `MKPKT` and `MKACK` (43_composite_commands.md R95, R96): both compute a checksum and load the frame
that carries it. -/

namespace Sys2Proof.Machine

/-- No frame is corrupted that carries the checksum of its own tag and payload. -/
theorem isCorrupted_encodeFrame_checksum (seq : Byte) (p : List Byte) :
    isCorrupted (encodeFrame seq p (checksum seq p)) = false := by
  rw [encodeFrame, isCorrupted_eq_decide, word_hi8_lo8]
  exact decide_eq_false (not_not_intro rfl)

/-! ## The packet of a payload -/

/-- The state that `makePacket` leaves when the frame fits: the checksum of `(SEQ, p)` in `CSUM`, the frame that carries it in
`FBUF`. -/
def State.loadPacket (s : State) (p : List Byte) : State :=
  { s with csum := checksum s.seq p }.loadFrame (encodeFrame s.seq p (checksum s.seq p))

theorem makePacket_eq {s : State} {p : List Byte} (hfit : p.length + headerLen ≤ s.config.maxFrame) :
    makePacket p s = .next (s.loadPacket p) :=
  makePacket_next.mpr ⟨hfit, rfl⟩

theorem State.flen_loadPacket {s : State} {p : List Byte} (hfit : p.length + headerLen ≤ s.config.maxFrame) :
    (s.loadPacket p).flen = p.length + headerLen :=
  State.flen_loadFrame hfit

theorem State.frame_loadPacket {s : State} {p : List Byte} (hfit : p.length + headerLen ≤ s.config.maxFrame) :
    (s.loadPacket p).frame = some (encodeFrame s.seq p (checksum s.seq p)) :=
  State.frame_loadFrame hfit

/-- No byte past the packet has a value (10_state.md R31; log entry 4). -/
theorem State.read_loadPacket_past (s : State) {p : List Byte} {a : Nat} (ha : p.length + headerLen ≤ a) :
    (s.loadPacket p).fbuf.read a = none :=
  (State.read_loadFrame _ a).trans (List.getElem?_eq_none ha)

/-- The packet depends on nothing that loading it changes. -/
theorem State.loadPacket_loadPacket (s : State) (p : List Byte) : (s.loadPacket p).loadPacket p = s.loadPacket p := rfl

/-! ## `MKPKT` (R95) -/

theorem exec_mkpkt_of_seq_gt {s : State} (hs : s.fault = .none) (hseq : 1 < s.seq.toNat) :
    exec .mkpkt s = .next (s.raise .badseq (encode .mkpkt)) := by
  rw [exec, execMkpkt, whileRunning_running _ hs, withSendableSeq_next]
  exact Or.inl ⟨hseq, rfl⟩

theorem exec_mkpkt_eq {s : State} {p : List Byte} (hs : s.fault = .none) (hseq : s.seq.toNat ≤ 1) (hp : s.payload = some p)
    (hfit : p.length + headerLen ≤ s.config.maxFrame) : exec .mkpkt s = .next (s.loadPacket p) := by
  rw [exec, execMkpkt, whileRunning_running _ hs, withSendableSeq_next, withPayload_some _ hp]
  exact Or.inr ⟨hseq, makePacket_eq hfit⟩

/-- Settles O48: a payload of at most `MAX_PAYLOAD` bytes makes a packet that fits; issued again `MKPKT` reads the same tag and
payload, so it loads the same packet. -/
theorem mkpktBuildsAValidPacket : Obligations.MkpktBuildsAValidPacket := by
  refine ⟨rfl, fun s hs => ⟨exec_mkpkt_of_seq_gt hs, fun p hvalid hseq hp hplen => ?_⟩⟩
  have hlen : p.length + headerLen = s.plen + 3 := by rw [State.payload_length hp]
  have hfit : p.length + headerLen ≤ s.config.maxFrame := by
    rw [hlen, ← hvalid.maxPayload_add]
    exact Nat.add_le_add_right hplen headerLen
  have hagain : exec .mkpkt (s.loadPacket p) = .next (s.loadPacket p) := by
    rw [exec_mkpkt_eq (s := s.loadPacket p) hs hseq hp hfit, State.loadPacket_loadPacket]
  exact ⟨_, exec_mkpkt_eq hs hseq hp hfit, rfl, (State.flen_loadPacket hfit).trans hlen, State.frame_loadPacket hfit,
    fun _ ha => State.read_loadPacket_past s (hlen ▸ ha), hagain, isCorrupted_encodeFrame_checksum s.seq p⟩

/-! ## `MKACK` (R96) -/

theorem exec_mkack_of_seq_gt {s : State} (hs : s.fault = .none) (hseq : 1 < s.seq.toNat) :
    exec .mkack s = .next (s.raise .badseq (encode .mkack)) := by
  rw [exec, execMkack, whileRunning_running _ hs, withSendableSeq_next]
  exact Or.inl ⟨hseq, rfl⟩

/-- The ACK packet is 6 bytes long, so it fits every valid configuration (00_scope.md R6). -/
theorem exec_mkack_eq {s : State} (hs : s.fault = .none) (hvalid : s.config.Valid) (hseq : s.seq.toNat ≤ 1) :
    exec .mkack s = .next (s.loadPacket ackMarker) := by
  rw [exec, execMkack, whileRunning_running _ hs, withSendableSeq_next]
  exact Or.inr ⟨hseq, makePacket_eq hvalid⟩

/-- What `MKACK` leaves, for a tag whose ACK has the checksum `c`. -/
theorem exec_mkack_builds {s : State} {tag : Byte} {c : Half} (hs : s.fault = .none) (hvalid : s.config.Valid)
    (hseq : s.seq = tag) (htag : tag.toNat ≤ 1) (hc : checksum tag ackMarker = c) :
    ∃ t, exec .mkack s = .next t ∧ t = { s with csum := c, flen := 6, fbuf := t.fbuf } ∧
      t.frame = some (encodeFrame tag ackMarker c) ∧ ∀ a, 6 ≤ a → t.fbuf.read a = none := by
  subst hseq hc
  have hflen : (s.loadPacket ackMarker).flen = 6 := State.flen_loadPacket hvalid
  refine ⟨_, exec_mkack_eq hs hvalid htag, ?_, State.frame_loadPacket hvalid,
    fun _ => State.read_loadPacket_past s (p := ackMarker)⟩
  rw [← hflen]
  rfl

/-- Settles O49: `exec_mkack_builds` at each of the two tags, whose checksums are evaluated. -/
theorem mkackBuildsTheAck : Obligations.MkackBuildsTheAck :=
  ⟨rfl, fun _ hs => ⟨exec_mkack_of_seq_gt hs,
    fun hvalid hseq => exec_mkack_builds hs hvalid hseq (by decide) (by decide),
    fun hvalid hseq => exec_mkack_builds hs hvalid hseq (by decide) (by decide)⟩⟩

end Sys2Proof.Machine
end

section
/-! Faults and the halted state (60_exceptions.md R101 to R109): which words are malformed, which fault a word raises in a
running block and what it records, and that a halted block ignores every word. -/

namespace Sys2Proof

/-! ## Malformed words (R103; 30_encoding.md R53 to R55) -/

/-- The codes of the commands without an operand. -/
def noOperandCodes : List Byte :=
  [0x03#8, 0x05#8, 0x10#8, 0x11#8, 0x20#8, 0x21#8, 0x22#8, 0x23#8, 0x24#8, 0x30#8, 0x31#8]

/-- The codes of the commands with an `imm8`. -/
def imm8Codes : List Byte := [0x01#8, 0x04#8, 0x06#8]

/-- R103's list of the ways in which a word is malformed; code 0x02 is `WRCSUM`, which uses all of `IMM`. -/
def Malformed (cw : CmdWord) : Prop :=
  opField cw ∉ 0x02#8 :: (imm8Codes ++ noOperandCodes) ∨ rsvField cw ≠ 0#8 ∨
    (opField cw ∈ noOperandCodes ∧ immField cw ≠ 0#16) ∨ (opField cw ∈ imm8Codes ∧ cw.extractLsb' 8 8 ≠ 0#8)

theorem decodeOp_of_mem_imm8Codes {op : Byte} (h : op ∈ imm8Codes) : ∃ mk, decodeOp op = imm8Form mk := by
  simp only [imm8Codes, List.mem_cons, List.not_mem_nil, or_false] at h
  rcases h with rfl | rfl | rfl <;> exact ⟨_, rfl⟩

theorem decodeOp_of_mem_noOperandCodes {op : Byte} (h : op ∈ noOperandCodes) : ∃ i, decodeOp op = noOperandForm i := by
  simp only [noOperandCodes, List.mem_cons, List.not_mem_nil, or_false] at h
  rcases h with rfl | rfl | rfl | rfl | rfl | rfl | rfl | rfl | rfl | rfl | rfl <;> exact ⟨_, rfl⟩

/-- A word that is not malformed has a known code and the zeros that the code's operand form asks for. -/
theorem decode_ok_of_not_malformed {cw : CmdWord} (h : ¬ Malformed cw) : ∃ i, decode cw = .ok i := by
  simp only [Malformed, not_or, not_and, not_not] at h
  obtain ⟨hop, hrsv, hnone, hhigh⟩ := h
  rw [decode_of_opField rfl hrsv]
  rcases List.mem_cons.mp hop with h2 | hop
  · exact ⟨.wrcsum (immField cw), by rw [h2]; rfl⟩
  · rcases List.mem_append.mp hop with h8 | h0
    · obtain ⟨mk, hmk⟩ := decodeOp_of_mem_imm8Codes h8
      exact ⟨_, hmk ▸ imm8Form_eq_ok.mpr ⟨(immHigh_immField cw).trans (hhigh h8), rfl⟩⟩
    · obtain ⟨i, hi⟩ := decodeOp_of_mem_noOperandCodes h0
      exact ⟨i, hi ▸ noOperandForm_eq_ok.mpr ⟨hnone h0, rfl⟩⟩

/-- The word of a command is not malformed: its fields, command by command. -/
theorem not_malformed_encode {i : Instr} (h : i.WellFormed) : ¬ Malformed (encode i) := by
  rw [Malformed, ← immHigh_immField]
  cases i with
  | frameData | frameAck0 | frameAck1 => cases h
  | _ => simp [encode, imm8Codes, noOperandCodes]

theorem decode_error_iff_malformed (cw : CmdWord) : (∃ x, decode cw = .error x) ↔ Malformed cw := by
  constructor
  · rintro ⟨x, hx⟩
    by_contra hwell
    obtain ⟨i, hi⟩ := decode_ok_of_not_malformed hwell
    rw [hx] at hi
    cases hi
  · intro hmal
    cases hd : decode cw with
    | error x => exact ⟨x, rfl⟩
    | ok i =>
      obtain ⟨hwf, rfl⟩ := decode_eq_ok_iff.mp hd
      exact absurd hmal (not_malformed_encode hwf)

end Sys2Proof

namespace Sys2Proof.Machine

theorem step_command {s : State} {cw : CmdWord} {rest : List HostAction} (h : s.pending = .command cw :: rest) :
    step s = issueWord cw { s with pending := rest } :=
  takeStep_next h

/-! ## The halted block (R109) -/

/-- The rule of every instruction begins with `whileRunning`. -/
theorem exec_halted {s : State} (h : s.Halted) (i : Instr) : exec i s = .next s := by
  cases i <;> exact whileRunning_halted _ h

theorem issueWord_halted {s : State} (h : s.Halted) (cw : CmdWord) : issueWord cw s = .next s := by
  cases hd : decode cw with
  | ok i => rw [issueWord_decoded hd, exec_halted h]
  | error x => rw [issueWord_illegal hd, illegalWord, whileRunning_halted _ h]

theorem runWords_halted {s : State} (h : s.Halted) (cws : List CmdWord) : runWords cws s = .next s := by
  induction cws with
  | nil => rfl
  | cons cw cws ih => rw [runWords, issueWord_halted h]; exact ih

/-- What the host has yet to give is nothing it can read (10_state.md R31). -/
theorem State.observe_pending (s : State) (rest : List HostAction) : ({ s with pending := rest } : State).observe = s.observe :=
  rfl

/-- Settles O10, by `exec_halted` and `issueWord_halted`. -/
theorem haltedBlockIgnoresCommands : Obligations.HaltedBlockIgnoresCommands := fun s hs =>
  ⟨exec_halted hs, fun cw rest hp =>
    ⟨(step_command hp).trans (issueWord_halted (s := { s with pending := rest }) hs cw), s.observe_pending rest⟩⟩

/-! ## Which fault a word raises in a running block (R103 to R106) -/

/-- The fault that the command's own check raises in a running block, `none` when it passes or there is no check (R104, R105);
a frame row is an illegal word (30_encoding.md R56). -/
def State.faultOf (s : State) : Instr → FaultCode
  | .ppush _ => if s.plen = s.config.maxPayload then .oversize else .none
  | .fpush _ => if s.flen = s.config.maxFrame then .oversize else .none
  | .enc | .mkpkt | .mkack => if 1 < s.seq.toNat then .badseq else .none
  | .frameData _ _ | .frameAck0 | .frameAck1 => .illegal
  | .wrseq _ | .wrcsum _ | .pclr | .fclr | .csum | .vrfy | .hseq | .isack | .pld | .iscor => .none

/-- The fault that the word raises in a running block: decoding comes before the command's own check (R106). -/
def State.faultOfWord (s : State) (cw : CmdWord) : FaultCode :=
  match decode cw with
  | .ok i => s.faultOf i
  | .error _ => .illegal

theorem State.faultOfWord_decoded (s : State) {cw : CmdWord} {i : Instr} (h : decode cw = .ok i) :
    s.faultOfWord cw = s.faultOf i := by
  rw [State.faultOfWord, h]

theorem State.faultOfWord_illegal (s : State) {cw : CmdWord} {x : DecodeError} (h : decode cw = .error x) :
    s.faultOfWord cw = .illegal := by
  rw [State.faultOfWord, h]

theorem State.faultOf_eq_illegal_iff (s : State) (i : Instr) : s.faultOf i = .illegal ↔ ¬ i.WellFormed := by
  cases i <;> simp [State.faultOf, Instr.WellFormed, Instr.format, ite_eq_iff]

theorem State.faultOf_eq_oversize_iff (s : State) (i : Instr) : s.faultOf i = .oversize ↔
    (∃ b, i = .ppush b) ∧ s.plen = s.config.maxPayload ∨ (∃ b, i = .fpush b) ∧ s.flen = s.config.maxFrame := by
  cases i <;> simp [State.faultOf, ite_eq_iff]

theorem State.faultOf_eq_badseq_iff (s : State) (i : Instr) : s.faultOf i = .badseq ↔
    (i = .enc ∨ i = .mkpkt ∨ i = .mkack) ∧ 1 < s.seq.toNat := by
  cases i <;> simp [State.faultOf, ite_eq_iff]

theorem State.faultOfWord_eq_illegal_iff (s : State) (cw : CmdWord) :
    s.faultOfWord cw = .illegal ↔ ∃ x, decode cw = .error x := by
  cases hd : decode cw with
  | error x => simp [s.faultOfWord_illegal hd]
  | ok i =>
    obtain ⟨hwf, -⟩ := decode_eq_ok_iff.mp hd
    simp [s.faultOfWord_decoded hd, s.faultOf_eq_illegal_iff, hwf]

theorem State.faultOfWord_eq_oversize_iff (s : State) (cw : CmdWord) : s.faultOfWord cw = .oversize ↔
    (∃ b, decode cw = .ok (.ppush b)) ∧ s.plen = s.config.maxPayload ∨
      (∃ b, decode cw = .ok (.fpush b)) ∧ s.flen = s.config.maxFrame := by
  cases hd : decode cw with
  | error x => simp [s.faultOfWord_illegal hd]
  | ok i => simp [s.faultOfWord_decoded hd, s.faultOf_eq_oversize_iff]

theorem State.faultOfWord_eq_badseq_iff (s : State) (cw : CmdWord) : s.faultOfWord cw = .badseq ↔
    (decode cw = .ok .enc ∨ decode cw = .ok .mkpkt ∨ decode cw = .ok .mkack) ∧ 1 < s.seq.toNat := by
  cases hd : decode cw with
  | error x => simp [s.faultOfWord_illegal hd]
  | ok i => simp [s.faultOfWord_decoded hd, s.faultOf_eq_badseq_iff]

/-! ## What a word leaves in a running block (R102) -/

/-- `t` is what the word `cw` can leave of the running state `s` when the fault it raises is `x`: the fault's record and nothing
else, or with no fault the `FCMD` of before (R102; 10_state.md R24). -/
structure EndsWith (s t : State) (x : FaultCode) (cw : CmdWord) : Prop where
  fault_eq : t.fault = x
  eq_raise : x ≠ .none → t = s.raise x cw
  fcmd_eq : x = .none → t.fcmd = s.fcmd

section
variable {s t : State} {x : FaultCode} {cw : CmdWord}

theorem EndsWith.raised (hx : x ≠ .none) (ht : t = s.raise x cw) : EndsWith s t x cw :=
  ⟨ht ▸ rfl, fun _ => ht, fun h => absurd h hx⟩

theorem EndsWith.completed (hfault : t.fault = .none) (hfcmd : t.fcmd = s.fcmd) : EndsWith s t .none cw :=
  ⟨hfault, fun h => absurd rfl h, fun _ => hfcmd⟩

/-- A check that raises `x` when `P` holds. -/
theorem EndsWith.of_check {P : Prop} [Decidable P] (hx : x ≠ .none)
    (h : (P ∧ t = s.raise x cw) ∨ (¬ P ∧ t.fault = .none ∧ t.fcmd = s.fcmd)) :
    EndsWith s t (if P then x else .none) cw := by
  rcases h with ⟨hP, ht⟩ | ⟨hP, hfault, hfcmd⟩
  · rw [if_pos hP]; exact .raised hx ht
  · rw [if_neg hP]; exact .completed hfault hfcmd

theorem exec_endsWith {i : Instr} (hs : s.fault = .none) (h : exec i s = .next t) :
    EndsWith s t (s.faultOf i) (encode i) := by
  have hnext := exec_running_next hs h
  cases i with
  | wrseq | wrcsum | pclr | fclr => obtain rfl : t = _ := hnext; exact .completed hs rfl
  | csum | vrfy => obtain ⟨p, -, rfl⟩ := hnext; exact .completed hs rfl
  | hseq | isack | iscor => obtain ⟨-, rfl⟩ | ⟨-, f, -, rfl⟩ := hnext <;> exact .completed hs rfl
  | pld => obtain ⟨-, rfl⟩ | ⟨-, f, -, -, rfl⟩ := hnext <;> exact .completed hs rfl
  | ppush | fpush =>
    refine .of_check (by decide) (hnext.imp_right ?_)
    rintro ⟨hlt, rfl⟩
    exact ⟨Nat.ne_of_lt hlt, hs, rfl⟩
  | enc | mkpkt =>
    refine .of_check (by decide) (hnext.imp_right ?_)
    rintro ⟨hle, p, -, -, rfl⟩
    exact ⟨Nat.not_lt.mpr hle, hs, rfl⟩
  | mkack =>
    refine .of_check (by decide) (hnext.imp_right ?_)
    rintro ⟨hle, -, rfl⟩
    exact ⟨Nat.not_lt.mpr hle, (State.loadFrame_fault _ _).trans hs, State.loadFrame_fcmd _ _⟩
  | frameData | frameAck0 | frameAck1 => exact .raised (x := .illegal) (by decide) hnext

theorem issueWord_of_error {e : DecodeError} (hs : s.fault = .none) (hd : decode cw = .error e) :
    issueWord cw s = .next (s.raise .illegal cw) := by
  rw [issueWord_illegal hd, illegalWord, whileRunning_running _ hs]

theorem issueWord_endsWith (hs : s.fault = .none) (h : issueWord cw s = .next t) : EndsWith s t (s.faultOfWord cw) cw := by
  cases hd : decode cw with
  | error e =>
    rw [issueWord_of_error hs hd] at h
    rw [s.faultOfWord_illegal hd]
    exact .raised (by decide) (Host.Outcome.next.inj h).symm
  | ok i =>
    rw [issueWord_decoded hd] at h
    obtain ⟨-, rfl⟩ := decode_eq_ok_iff.mp hd
    rw [s.faultOfWord_decoded hd]
    exact exec_endsWith hs h

variable {rest : List HostAction}

theorem step_of_error {e : DecodeError} (hs : s.fault = .none) (hp : s.pending = .command cw :: rest)
    (hd : decode cw = .error e) : step s = .next { s with pending := rest, fault := .illegal, fcmd := cw } :=
  (step_command hp).trans (issueWord_of_error (s := { s with pending := rest }) hs hd)

/-- What a step on a command word can leave of a running block. -/
theorem step_endsWith (hs : s.fault = .none) (hp : s.pending = .command cw :: rest) (h : step s = .next t) :
    EndsWith { s with pending := rest } t (s.faultOfWord cw) cw :=
  issueWord_endsWith (s := { s with pending := rest }) hs ((step_command hp).symm.trans h)

/-- The record of a fault, in the form the statements have. -/
theorem step_eq_of_faults (hs : s.fault = .none) (hp : s.pending = .command cw :: rest) (h : step s = .next t)
    (ht : t.Halted) : t = { s with pending := rest, fault := t.fault, fcmd := cw } := by
  obtain ⟨hfault, hraise, -⟩ := step_endsWith hs hp h
  rw [← hfault] at hraise
  exact hraise ht

end

/-- Settles O4: the malformed words are those that do not decode, and only those raise `ILLEGAL`. -/
theorem illegalWordsRaiseIllegal : Obligations.IllegalWordsRaiseIllegal := by
  refine ⟨rfl, decode_error_iff_malformed, fun s cw rest hs hp => ⟨fun hmal => ?_, fun hwell t ht hill => ?_⟩⟩
  · obtain ⟨e, hd⟩ := (decode_error_iff_malformed cw).mpr hmal
    exact step_of_error hs hp hd
  · have hword : s.faultOfWord cw = .illegal := (step_endsWith hs hp ht).fault_eq.symm.trans hill
    exact hwell ((decode_error_iff_malformed cw).mp ((s.faultOfWord_eq_illegal_iff cw).mp hword))

/-- Settles O13: the record by `step_eq_of_faults`, and the block is then halted. -/
theorem faultsArePrecise : Obligations.FaultsArePrecise := fun _ _ _ _ hs hp ht hfault =>
  ⟨step_eq_of_faults hs hp ht hfault, runWords_halted hfault⟩

/-- Settles O14: a word that decodes raises only its command's own fault, by the equivalences for `State.faultOf`. -/
theorem faultPriority : Obligations.FaultPriority := by
  intro s cw rest hp
  have hhalted (hs : s.fault ≠ .none) : step s = .next { s with pending := rest } :=
    (step_command hp).trans (issueWord_halted (s := { s with pending := rest }) hs cw)
  refine ⟨hhalted, fun hs x => step_of_error hs hp, fun hs i t hd ht => ?_, fun t ht hfault => ?_⟩
  · obtain ⟨hwf, -⟩ := decode_eq_ok_iff.mp hd
    have hown : t.fault = s.faultOf i := (step_endsWith hs hp ht).fault_eq.trans (s.faultOfWord_decoded hd)
    rw [hown, s.faultOf_eq_badseq_iff, s.faultOf_eq_oversize_iff, Ne, s.faultOf_eq_illegal_iff]
    exact ⟨not_not_intro hwf, fun h => h.1, Or.imp And.left And.left⟩
  · by_cases hs : s.fault = .none
    · rw [step_eq_of_faults hs hp ht hfault]
      exact ⟨rfl, rfl⟩
    · obtain rfl := Host.Outcome.next.inj ((hhalted hs).symm.trans ht)
      exact ⟨rfl, rfl⟩

/-- Settles O16: a step ends with the fault `State.faultOfWord`, whose three causes are the three equivalences. -/
theorem faultCausesAreComplete : Obligations.FaultCausesAreComplete := by
  refine ⟨rfl, rfl, rfl, rfl, fun c => ⟨State.resetWith_fault c, State.resetWith_fcmd c⟩, fun s t cw rest hs hp ht => ?_⟩
  have hends := step_endsWith hs hp ht
  refine ⟨?_, ?_, ?_, step_eq_of_faults hs hp ht, fun hnone => hends.fcmd_eq (hends.fault_eq.symm.trans hnone)⟩
  · rw [hends.fault_eq, s.faultOfWord_eq_illegal_iff]
  · rw [hends.fault_eq, s.faultOfWord_eq_oversize_iff]
  · rw [hends.fault_eq, s.faultOfWord_eq_badseq_iff]

end Sys2Proof.Machine
end

section
/-! Every valid configuration fits an ACK frame, and `LEN_W` is the smallest width of a length register
(00_scope.md R5 to R11, 70_reset_and_hazards.md R119). -/

namespace Sys2Proof

theorem Config.Valid.maxFrame_ne_zero {c : Config} (h : c.Valid) : c.maxFrame ≠ 0 :=
  Nat.ne_zero_of_lt h

/-- The widths of at least `LEN_W` bits are those that hold `MAX_FRAME`. -/
theorem Config.lenW_le_iff {c : Config} (h : c.maxFrame ≠ 0) (w : Nat) : c.lenW ≤ w ↔ c.maxFrame < 2 ^ w :=
  Nat.succ_le_iff.trans (Nat.log2_lt h)

/-- R11's formula for `LEN_W`: both sides are at most the same widths. -/
theorem Config.lenW_eq_clog {c : Config} (h : c.maxFrame ≠ 0) : c.lenW = Nat.clog 2 (c.maxFrame + 1) :=
  eq_of_forall_ge_iff fun w => by
    rw [Config.lenW_le_iff h, Nat.clog_le_iff_le_pow Nat.one_lt_two, Nat.succ_le_iff]

/-- Settles O21: the values of the default by evaluation, the rest for every valid configuration by the lemmas about `LEN_W` and
the length registers. -/
theorem configurationFits : Obligations.ConfigurationFits := by
  refine ⟨rfl, by decide, rfl, rfl, by decide, rfl, fun c (hc : c.Valid) => ?_⟩
  have hzero := hc.maxFrame_ne_zero
  refine ⟨hc.maxPayload_add, hc, Config.lenW_eq_clog hzero, fun n hn => ⟨?_, Config.toLen_of_le hn⟩, fun w hw => ?_⟩
  · exact Nat.lt_of_le_of_lt hn c.maxFrame_lt_two_pow
  · exact (Config.lenW_le_iff hzero w).mpr (hw c.maxFrame Nat.le.refl)

end Sys2Proof
end

section
/-! The reset input: it gives the reset state in any state, and is the only exit from the halted state
(70_reset_and_hazards.md R116, 60_exceptions.md R110). -/

namespace Sys2Proof.Machine

theorem step_idle {s : State} (h : s.pending = []) : step s = .next s :=
  takeStep_idle h

theorem step_reset {s : State} {rest : List HostAction} (h : s.pending = .reset :: rest) :
    step s = .next { State.resetWith s.config with pending := rest } :=
  takeStep_next h

theorem step_command_halted {s : State} {cw : CmdWord} {rest : List HostAction} (hs : s.Halted)
    (h : s.pending = .command cw :: rest) : step s = .next { s with pending := rest } :=
  (step_command h).trans (issueWord_halted (s := { s with pending := rest }) hs cw)

/-- Settles O11: an idle step and a step on a command word leave a halted block's `FAULT` as it is. -/
theorem onlyResetLeavesTheHaltedState : Obligations.OnlyResetLeavesTheHaltedState := by
  refine ⟨fun s rest => step_reset, fun s t hs ht hrunning => ?_⟩
  match hp : s.pending with
  | [] =>
    rw [step_idle hp] at ht
    cases ht
    exact absurd hrunning hs
  | .command cw :: rest =>
    rw [step_command_halted hs hp] at ht
    cases ht
    exact absurd hrunning hs
  | .reset :: rest => exact ⟨rest, rfl⟩

end Sys2Proof.Machine
end

section
/-! A command word issued to a state that meets the invariant completes and leaves a state that meets it
(10_state.md R24, R26, R27, R31; 60_exceptions.md R101; 70_reset_and_hazards.md R128). -/

namespace Sys2Proof.Machine

variable {s t : State}

/-! ## The updates keep the buffers bounded -/

/-- The bounds are about the configuration and the buffers only. -/
theorem State.Bounded.withRegisters (hb : s.Bounded) (seq : Byte) (csum : Half) (res runt : Bool) (fault : FaultCode)
    (fcmd : CmdWord) :
    State.Bounded { s with seq := seq, csum := csum, res := res, runt := runt, fault := fault, fcmd := fcmd } :=
  ⟨hb.payloadCovered, hb.frameCovered, hb.plenBound, hb.flenBound, hb.configValid⟩

theorem State.Bounded.loadPayload (hb : s.Bounded) {bs : List Byte} (hfit : bs.length ≤ s.config.maxPayload) :
    (s.loadPayload bs).Bounded := by
  have hplen := State.plen_loadPayload hfit
  exact ⟨hplen ▸ Memory.ofBytes_covers bs, hb.frameCovered, hplen ▸ hfit, hb.flenBound, hb.configValid⟩

theorem State.Bounded.loadFrame (hb : s.Bounded) {bs : List Byte} (hfit : bs.length ≤ s.config.maxFrame) :
    (s.loadFrame bs).Bounded := by
  have hflen := State.flen_loadFrame hfit
  exact ⟨hb.payloadCovered, hflen ▸ Memory.ofBytes_covers bs, hb.plenBound, hflen ▸ hfit, hb.configValid⟩

theorem State.Bounded.appendPayload (hb : s.Bounded) (b : Byte) (h : s.plen < s.config.maxPayload) :
    (s.appendPayload b).Bounded := by
  rw [State.appendPayload_eq b h]
  exact ⟨Memory.write_covers b hb.payloadCovered, hb.frameCovered, h, hb.flenBound, hb.configValid⟩

theorem State.Bounded.appendFrame (hb : s.Bounded) (b : Byte) (h : s.flen < s.config.maxFrame) :
    (s.appendFrame b).Bounded := by
  rw [State.appendFrame_eq b h]
  exact ⟨hb.payloadCovered, Memory.write_covers b hb.frameCovered, hb.plenBound, h, hb.configValid⟩

/-! ## The operands of a bounded state -/

theorem State.Bounded.exists_payload (hb : s.Bounded) : ∃ p, s.payload = some p :=
  Memory.readFrom_of_covers hb.payloadCovered

theorem State.Bounded.exists_frame (hb : s.Bounded) : ∃ f, s.frame = some f :=
  Memory.readFrom_of_covers hb.frameCovered

/-- The four commands that examine a frame find a runt or a readable frame. -/
theorem State.Bounded.runt_or_frame (hb : s.Bounded) :
    s.FrameIsRunt ∨ ∃ f, s.frame = some f ∧ headerLen ≤ s.flen := by
  obtain ⟨f, hf⟩ := hb.exists_frame
  exact (Nat.lt_or_ge s.flen headerLen).imp_right fun h => ⟨f, hf, h⟩

/-- The frame of the payload in `PBUF` fits `FBUF` (00_scope.md R7). -/
theorem State.Bounded.packet_fits (hb : s.Bounded) {p : List Byte} (hp : s.payload = some p) :
    p.length + headerLen ≤ s.config.maxFrame := by
  rw [State.payload_length hp, ← hb.configValid.maxPayload_add]
  exact Nat.add_le_add_right hb.plenBound headerLen

/-- The payload of the frame in `FBUF` fits `PBUF`. -/
theorem State.Bounded.payloadOf_fits (hb : s.Bounded) {f : List Byte} (hf : s.frame = some f) :
    (payloadOf f).length ≤ s.config.maxPayload := by
  rw [payloadOf_length, State.frame_length hf]
  exact Nat.sub_le_sub_right hb.flenBound headerLen

/-! ## Every instruction completes and keeps the bounds (R128) -/

theorem exec_completes (hs : s.fault = .none) (hb : s.Bounded) (i : Instr) : ∃ t, exec i s = .next t := by
  have hseq := Nat.lt_or_ge 1 s.seq.toNat
  obtain ⟨p, hp⟩ := hb.exists_payload
  cases i with
  | wrseq b => exact ⟨_, exec_wrseq_eq hs b⟩
  | wrcsum c => exact ⟨_, exec_wrcsum_eq hs c⟩
  | pclr => exact ⟨_, exec_pclr_eq hs⟩
  | fclr => exact ⟨_, exec_fclr_eq hs⟩
  | ppush b =>
    rcases Nat.eq_or_lt_of_le hb.plenBound with h | h
    · exact ⟨_, exec_ppush_of_full hs b h⟩
    · exact ⟨_, exec_ppush_of_lt hs b h⟩
  | fpush b =>
    rcases Nat.eq_or_lt_of_le hb.flenBound with h | h
    · exact ⟨_, exec_fpush_of_full hs b h⟩
    · exact ⟨_, exec_fpush_of_lt hs b h⟩
  | csum => exact ⟨_, exec_csum_eq hs hp⟩
  | vrfy => exact ⟨_, exec_vrfy_eq hs hp⟩
  | enc =>
    rcases hseq with h | h
    · exact ⟨_, exec_enc_of_seq_gt hs h⟩
    · exact ⟨_, exec_enc_eq hs h hp (hb.packet_fits hp)⟩
  | mkpkt =>
    rcases hseq with h | h
    · exact ⟨_, exec_mkpkt_of_seq_gt hs h⟩
    · exact ⟨_, exec_mkpkt_eq hs h hp (hb.packet_fits hp)⟩
  | mkack =>
    rcases hseq with h | h
    · exact ⟨_, exec_mkack_of_seq_gt hs h⟩
    · exact ⟨_, exec_mkack_eq hs hb.configValid h⟩
  | hseq =>
    obtain h | ⟨f, hf, h⟩ := hb.runt_or_frame
    · exact ⟨_, exec_hseq_of_runt hs h⟩
    · exact ⟨_, exec_hseq_of_frame hs hf h⟩
  | isack =>
    obtain h | ⟨f, hf, h⟩ := hb.runt_or_frame
    · exact ⟨_, exec_isack_of_runt hs h⟩
    · exact ⟨_, exec_isack_of_frame hs hf h⟩
  | pld =>
    obtain h | ⟨f, hf, h⟩ := hb.runt_or_frame
    · exact ⟨_, exec_pld_of_runt hs h⟩
    · exact ⟨_, exec_pld_of_frame hs hf h (hb.payloadOf_fits hf)⟩
  | iscor =>
    obtain h | ⟨f, hf, h⟩ := hb.runt_or_frame
    · exact ⟨_, exec_iscor_of_runt hs h⟩
    · exact ⟨_, exec_iscor_of_frame hs hf h⟩
  | frameData | frameAck0 | frameAck1 => exact ⟨_, illegalWord_next.mpr (.inr ⟨hs, rfl⟩)⟩

theorem exec_keeps_bounded {i : Instr} (hs : s.fault = .none) (hb : s.Bounded) (h : exec i s = .next t) : t.Bounded := by
  have hnext := exec_running_next hs h
  have hempty : ([] : List Byte).length ≤ s.config.maxPayload := Nat.zero_le _
  cases i with
  | wrseq | wrcsum | frameData | frameAck0 | frameAck1 => obtain rfl : t = _ := hnext; exact hb.withRegisters ..
  | pclr => obtain rfl : t = _ := hnext; exact hb.loadPayload hempty
  | fclr => obtain rfl : t = _ := hnext; exact hb.loadFrame (Nat.zero_le _)
  | ppush b =>
    obtain ⟨-, rfl⟩ | ⟨hlt, rfl⟩ := hnext
    · exact hb.withRegisters ..
    · exact hb.appendPayload b hlt
  | fpush b =>
    obtain ⟨-, rfl⟩ | ⟨hlt, rfl⟩ := hnext
    · exact hb.withRegisters ..
    · exact hb.appendFrame b hlt
  | csum | vrfy => obtain ⟨p, -, rfl⟩ := hnext; exact hb.withRegisters ..
  | hseq | isack | iscor => obtain ⟨-, rfl⟩ | ⟨-, f, -, rfl⟩ := hnext <;> exact hb.withRegisters ..
  | pld =>
    have hrunt (b : Bool) : (s.setRunt b).Bounded := hb.withRegisters ..
    obtain ⟨-, rfl⟩ | ⟨-, f, -, hfit, rfl⟩ := hnext
    · exact (hrunt true).loadPayload hempty
    · exact (hrunt false).loadPayload hfit
  | enc =>
    obtain ⟨-, rfl⟩ | ⟨-, p, -, hfit, rfl⟩ := hnext
    · exact hb.withRegisters ..
    · exact hb.loadFrame hfit
  | mkpkt =>
    obtain ⟨-, rfl⟩ | ⟨-, p, -, hfit, rfl⟩ := hnext
    · exact hb.withRegisters ..
    · exact State.Bounded.loadFrame (hb.withRegisters ..) hfit
  | mkack =>
    obtain ⟨-, rfl⟩ | ⟨-, hfit, rfl⟩ := hnext
    · exact hb.withRegisters ..
    · exact State.Bounded.loadFrame (hb.withRegisters ..) hfit

/-! ## One command word -/

variable {cw : CmdWord}

theorem issueWord_completes (hs : s.fault = .none) (hb : s.Bounded) (cw : CmdWord) : ∃ t, issueWord cw s = .next t := by
  cases hd : decode cw with
  | error e => exact ⟨_, issueWord_of_error hs hd⟩
  | ok i =>
    rw [issueWord_decoded hd]
    exact exec_completes hs hb i

theorem issueWord_keeps_bounded (hs : s.fault = .none) (hb : s.Bounded) (h : issueWord cw s = .next t) : t.Bounded := by
  cases hd : decode cw with
  | error e =>
    rw [issueWord_of_error hs hd] at h
    cases h
    exact hb.withRegisters ..
  | ok i =>
    rw [issueWord_decoded hd] at h
    exact exec_keeps_bounded hs hb h

/-- The record of the fault that a word raises tells its cause (60_exceptions.md R103 to R105). -/
theorem State.raise_faultExplained (hx : s.faultOfWord cw ≠ .none) : (s.raise (s.faultOfWord cw) cw).FaultExplained := by
  have hword {i : Instr} (hi : decode cw = .ok i) : cw = encode i := (decode_eq_ok_iff.mp hi).2.symm
  cases hcause : s.faultOfWord cw with
  | none => exact absurd hcause hx
  | illegal => exact (s.faultOfWord_eq_illegal_iff cw).mp hcause
  | oversize =>
    obtain ⟨⟨b, hb⟩, hfull⟩ | ⟨⟨b, hb⟩, hfull⟩ := (s.faultOfWord_eq_oversize_iff cw).mp hcause
    · exact .inl ⟨b, hword hb, hfull⟩
    · exact .inr ⟨b, hword hb, hfull⟩
  | badseq =>
    obtain ⟨hi, hseq⟩ := (s.faultOfWord_eq_badseq_iff cw).mp hcause
    exact ⟨hseq, hi.imp hword (Or.imp hword hword)⟩

theorem State.faultExplained_of_running (hs : s.fault = .none) : s.FaultExplained ↔ s.fcmd = 0#32 := by
  rw [State.FaultExplained, hs]

theorem issueWord_keeps_faultExplained (hs : s.fault = .none) (hexp : s.FaultExplained) (h : issueWord cw s = .next t) :
    t.FaultExplained := by
  obtain ⟨hfault, hraise, hfcmd⟩ := issueWord_endsWith hs h
  by_cases hx : s.faultOfWord cw = .none
  · rw [State.faultExplained_of_running (hfault.trans hx), hfcmd hx]
    exact (State.faultExplained_of_running hs).mp hexp
  · rw [hraise hx]
    exact State.raise_faultExplained hx

/-- A halted block stays as it is, so the invariant is kept in every state that meets it. -/
theorem issueWord_keeps_inv (hinv : s.Inv) (h : issueWord cw s = .next t) : t.Inv := by
  by_cases hs : s.fault = .none
  · exact ⟨issueWord_keeps_bounded hs hinv.bounded h, issueWord_keeps_faultExplained hs hinv.explained h⟩
  · rw [issueWord_halted hs] at h
    cases h
    exact hinv

theorem issueWord_eq_of_faults (hs : s.fault = .none) (h : issueWord cw s = .next t) (ht : t.Halted) :
    t = { s with fault := t.fault, fcmd := cw } := by
  obtain ⟨hfault, hraise, -⟩ := issueWord_endsWith hs h
  rw [← hfault] at hraise
  exact hraise ht

end Sys2Proof.Machine
end

section
/-! Runs over a list of command words: each ends, normally or at its first fault (70_reset_and_hazards.md R129). -/

namespace Sys2Proof.Machine

variable {s t v : State} {cw : CmdWord} {cws : List CmdWord}

theorem runWords_cons (h : issueWord cw s = .next t) (cws : List CmdWord) : runWords (cw :: cws) s = runWords cws t := by
  rw [runWords, h]

/-- The fault that the state `t` shows was taken at one word of the list, all before it having completed without one from `s`, and
`t` is what that word left. -/
def FaultedWithin (cws : List CmdWord) (s t : State) : Prop :=
  ∃ before cw later u, cws = before ++ cw :: later ∧ runWords before s = .next u ∧ u.fault = .none ∧
    issueWord cw u = .next t ∧ t = { u with fault := t.fault, fcmd := cw }

theorem FaultedWithin.head (hs : s.fault = .none) (h : issueWord cw s = .next t) (ht : t.Halted) :
    FaultedWithin (cw :: cws) s t :=
  ⟨[], cw, cws, s, rfl, rfl, hs, h, issueWord_eq_of_faults hs h ht⟩

theorem FaultedWithin.tail (h : issueWord cw s = .next t) : FaultedWithin cws t v → FaultedWithin (cw :: cws) s v := by
  rintro ⟨before, cw', later, u, rfl, hbefore, hrest⟩
  exact ⟨cw :: before, cw', later, u, rfl, (runWords_cons h before).trans hbefore, hrest⟩

/-- Settles O15, by induction on the list: the first word completes and keeps the invariant; when it faults, the halted block
ignores the rest, otherwise the rest runs from a running state. -/
theorem runsEndAtTheFirstFault : Obligations.RunsEndAtTheFirstFault := by
  intro cws
  induction cws with
  | nil => exact fun s hinv hs => ⟨s, rfl, hinv, fun hfault => absurd hs hfault⟩
  | cons cw cws ih =>
    intro s hinv hs
    obtain ⟨t, ht⟩ := issueWord_completes hs hinv.bounded cw
    have htinv := issueWord_keeps_inv hinv ht
    rw [runWords_cons ht]
    by_cases hfault : t.fault = .none
    · obtain ⟨v, hrun, hvinv, hwithin⟩ := ih t htinv hfault
      exact ⟨v, hrun, hvinv, fun hv => FaultedWithin.tail ht (hwithin hv)⟩
    · exact ⟨t, runWords_halted hfault cws, htinv, FaultedWithin.head hs ht⟩

end Sys2Proof.Machine
end

section
/-! Decoding and encoding are inverse to each other on the command words, and the frame rows are recognised by their bytes and
are no command words (30_encoding.md R48, R52 to R56). -/

namespace Sys2Proof

/-- Settles O1, by `decode_encode`. -/
theorem decodeInvertsEncode : Obligations.DecodeInvertsEncode := fun _ hwf => decode_encode hwf

/-- Settles O2, by `decode_eq_ok_iff`. -/
theorem decodedWordIsItsEncoding : Obligations.DecodedWordIsItsEncoding := fun _ _ h => decode_eq_ok_iff.mp h

/-- Settles O5: each of the words is the encoding of its command. -/
theorem specWordsDecode : Obligations.SpecWordsDecode :=
  ⟨decode_encode (i := .wrseq 0x01#8) rfl, decode_encode (i := .wrcsum 0x2DBC#16) rfl, decode_encode (i := .pclr) rfl,
    decode_encode (i := .ppush 0x68#8) rfl, decode_encode (i := .fclr) rfl, decode_encode (i := .fpush 0xFF#8) rfl,
    decode_encode (i := .csum) rfl, decode_encode (i := .vrfy) rfl, decode_encode (i := .enc) rfl,
    decode_encode (i := .hseq) rfl, decode_encode (i := .isack) rfl, decode_encode (i := .pld) rfl,
    decode_encode (i := .iscor) rfl, decode_encode (i := .mkpkt) rfl, decode_encode (i := .mkack) rfl⟩

/-! ## The frame rows as wire bytes (R48, R52) -/

/-- The two checksum bytes of a header, put together as `decodeFrame` does, are the checksum. -/
theorem shiftLeft_hi_or_lo (c : Half) :
    ((c.extractLsb' 8 8).setWidth 16 <<< 8) ||| (c.extractLsb' 0 8).setWidth 16 = c := by
  ext i hi
  by_cases h8 : i < 8
  · simp [h8, BitVec.getLsbD_eq_getElem hi]
  · have hlt : i - 8 < 8 := by omega
    simp [h8, hlt, Nat.add_sub_cancel' (Nat.le_of_not_lt h8), BitVec.getLsbD_eq_getElem hi]

theorem decodeFrame_header (tag : BitVec 1) (c : Half) :
    decodeFrame [tag.setWidth 8, c.extractLsb' 8 8, c.extractLsb' 0 8] = .ok (.frameData tag c) := by
  have hhigh : (tag.setWidth 8).extractLsb' 1 7 = 0#7 := by
    ext i hi
    simp
  have hlow : (tag.setWidth 8).extractLsb' 0 1 = tag := by
    ext i hi
    simp [hi, Nat.lt_trans hi (by decide : 1 < 8)]
  rw [decodeFrame, if_pos hhigh, hlow, shiftLeft_hi_or_lo]

/-- Settles O6: the header by `decodeFrame_header`, the two ACK frames by evaluation. -/
theorem framePatternsAreRecognised : Obligations.FramePatternsAreRecognised := by
  intro i bytes h
  cases i with
  | frameData tag c => cases h; exact decodeFrame_header tag c
  | frameAck0 | frameAck1 => cases h; rfl
  | _ => cases h

/-! ## The frame rows as command words (R56; log entry 8) -/

/-- The word of the `FRAME.DATA` row: the tag above the checksum (the table's numbering of R48). -/
theorem encode_frameData_toNat (tag : BitVec 1) (c : Half) :
    (encode (.frameData tag c)).toNat = tag.toNat * 65536 + c.toNat := by
  have htag := tag.isLt
  have hc : c.toNat < 2 ^ 16 := c.isLt
  simp only [encode, BitVec.toNat_or, BitVec.toNat_shiftLeft, BitVec.toNat_setWidth]
  rw [Nat.mod_eq_of_lt (by omega), Nat.mod_eq_of_lt (by omega), Nat.shiftLeft_eq, Nat.mod_eq_of_lt (by omega),
    Nat.mul_comm, ← Nat.two_pow_add_eq_or_of_lt hc]

theorem encode_frameData_eq (tag : BitVec 1) (c : Half) :
    encode (.frameData tag c) = BitVec.ofNat 32 (tag.toNat * 65536 + c.toNat) :=
  BitVec.eq_of_toNat_eq (by rw [BitVec.toNat_ofNat, ← encode_frameData_toNat, Nat.mod_eq_of_lt (BitVec.isLt _)])

/-- A frame row's operation code is none of the 15 codes: 0x00 for a header, 0x73 for an ACK frame. -/
theorem malformed_encode_frame {i : Instr} (h : i.format = .frame) : Malformed (encode i) := by
  refine Or.inl ?_
  cases i with
  | frameData tag c =>
    have hop : opField (encode (.frameData tag c)) = 0#8 := by
      have htag := tag.isLt
      have hc := c.isLt
      apply BitVec.eq_of_toNat_eq
      rw [opField, BitVec.extractLsb'_toNat, encode_frameData_toNat, Nat.shiftRight_eq_div_pow, Nat.div_eq_of_lt (by omega)]
      rfl
    rw [hop]
    decide
  | frameAck0 | frameAck1 => decide
  | _ => cases h

end Sys2Proof

namespace Sys2Proof.Machine

theorem illegalWord_running {s : State} (hs : s.fault = .none) (cw : CmdWord) :
    illegalWord cw s = .next (s.raise .illegal cw) :=
  illegalWord_next.mpr (.inr ⟨hs, rfl⟩)

/-- Settles O7: the effects by `illegalWord_running`, the undecodable words by `malformed_encode_frame`. -/
theorem frameRowsRaiseIllegal : Obligations.FrameRowsRaiseIllegal := by
  refine fun s hs => ⟨fun tag c => ?_, illegalWord_running hs _, illegalWord_running hs _,
    fun i hi => (decode_error_iff_malformed _).mpr (malformed_encode_frame hi)⟩
  rw [← encode_frameData_eq]
  exact illegalWord_running hs _

end Sys2Proof.Machine
end

section
/-! The step: what it runs, that it completes, and that it keeps the invariant (10_state.md R17, R24 to R31;
70_reset_and_hazards.md R116, R128), and the commands that never fault (60_exceptions.md R99). -/

namespace Sys2Proof.Machine

/-- Settles O8. -/
theorem stepRunsDecodedCommand : Obligations.StepRunsDecodedCommand := fun _ _ _ _ hp hd =>
  (step_command hp).trans (issueWord_decoded hd)

/-- Settles O9. -/
theorem idleBlockStays : Obligations.IdleBlockStays := fun _ => step_idle

/-! ## The invariant -/

/-- The invariant is about the block only, not about what the host has yet to give (log entry 1). -/
theorem State.Inv.withPending {s : State} (hinv : s.Inv) (rest : List HostAction) : State.Inv { s with pending := rest } := by
  obtain ⟨⟨hpay, hframe, hplen, hflen, hvalid⟩, hexp⟩ := hinv
  exact ⟨⟨hpay, hframe, hplen, hflen, hvalid⟩, hexp⟩

theorem State.resetWith_inv {c : Config} (hc : c.Valid) : (State.resetWith c).Inv :=
  ⟨⟨rfl, rfl, Nat.zero_le _, Nat.zero_le _, hc⟩, (State.faultExplained_of_running rfl).mpr rfl⟩

/-- Settles O18, by `State.resetWith_inv`. -/
theorem resetMeetsInvariant : Obligations.ResetMeetsInvariant :=
  ⟨State.resetWith_inv (by decide), fun _ => State.resetWith_inv⟩

/-- Settles O19: an idle step changes nothing, a command word keeps the invariant by `issueWord_keeps_inv`, and reset establishes it
again for the configuration, which is still valid. -/
theorem stepKeepsInvariant : Obligations.StepKeepsInvariant := by
  intro s t hinv ht
  match hp : s.pending with
  | [] =>
    rw [step_idle hp] at ht
    cases ht
    exact hinv
  | .command cw :: rest =>
    rw [step_command hp] at ht
    exact issueWord_keeps_inv (hinv.withPending rest) ht
  | .reset :: rest =>
    rw [step_reset hp] at ht
    cases ht
    exact (State.resetWith_inv hinv.bounded.configValid).withPending rest

/-- A halted block completes every instruction by leaving the state alone. -/
theorem State.Inv.exec_completes {s : State} (hinv : s.Inv) (i : Instr) : ∃ t, exec i s = .next t := by
  by_cases hs : s.fault = .none
  · exact Machine.exec_completes hs hinv.bounded i
  · exact ⟨s, exec_halted hs i⟩

theorem State.Inv.issueWord_completes {s : State} (hinv : s.Inv) (cw : CmdWord) : ∃ t, issueWord cw s = .next t := by
  by_cases hs : s.fault = .none
  · exact Machine.issueWord_completes hs hinv.bounded cw
  · exact ⟨s, issueWord_halted hs cw⟩

/-- Settles O20, by the kind of the next host action. -/
theorem everyStepCompletes : Obligations.EveryStepCompletes := by
  refine fun s hinv => ⟨?_, hinv.exec_completes⟩
  match hp : s.pending with
  | [] => exact ⟨s, step_idle hp⟩
  | .command cw :: rest => rw [step_command hp]; exact (hinv.withPending rest).issueWord_completes cw
  | .reset :: rest => exact ⟨_, step_reset hp⟩

/-! ## Data results (R99) -/

theorem State.faultOf_data (s : State) {i : Instr} (hi : i ∈ [Instr.hseq, .isack, .pld, .iscor, .vrfy, .csum]) :
    s.faultOf i = .none := by
  simp only [List.mem_cons, List.not_mem_nil, or_false] at hi
  rcases hi with rfl | rfl | rfl | rfl | rfl | rfl <;> rfl

/-- Settles O17: the six commands have no check that could fault, and `ISCOR` reports a runt and a corrupted frame in the flags. -/
theorem dataResultsAreNoFaults : Obligations.DataResultsAreNoFaults := by
  intro s t hs
  refine ⟨fun i hi ht => ?_, fun ht hrunt => ?_, fun f hf ht hcor => ?_⟩
  · have hends := exec_endsWith hs ht
    rw [s.faultOf_data hi] at hends
    exact ⟨hends.fault_eq, hends.fcmd_eq rfl⟩
  · rw [exec_iscor_of_runt hs hrunt] at ht
    cases ht
    exact ⟨rfl, rfl⟩
  · obtain ⟨-, rfl⟩ | ⟨-, f', hf', rfl⟩ := exec_running_next hs ht
    · rfl
    · obtain rfl : f = f' := Option.some.inj (hf.symm.trans hf')
      exact hcor

end Sys2Proof.Machine
end

section
/-! The checksum as arithmetic modulo 65535: its range, what `verify` accepts, `addmod`, and the byte-serial engine
(40_checksum_codec.md R64 to R72, 41_packet_framer.md R81, R88). -/

namespace Sys2Proof.Machine

/-! ## The range of the checksum (R66) -/

theorem wordSum_cons (w : Half) (ws : List Half) : wordSum (w :: ws) = w.toNat + wordSum ws := rfl

theorem checksum_eq_ffff_iff (seq : Byte) (p : List Byte) : checksum seq p = 0xFFFF#16 ↔ sum16 (seq :: p) = 0 := by
  have hlt := sum16_lt (seq :: p)
  rw [← BitVec.toNat_inj, checksum_toNat, BitVec.toNat_ofNat]
  omega

theorem sum16_eq_zero_iff (bs : List Byte) : sum16 bs = 0 ↔ 65535 ∣ wordSum (words bs) :=
  Nat.dvd_iff_mod_eq_zero.symm

/-- A word 0xFFFF counts as a word 0x0000. -/
theorem wordSum_ffff_mod (ws vs : List Half) :
    wordSum (ws ++ 0xFFFF#16 :: vs) % 65535 = wordSum (ws ++ 0x0000#16 :: vs) % 65535 := by
  simp only [wordSum_append, wordSum_cons, BitVec.toNat_ofNat]
  omega

theorem wordSum_words_replicate_zero (n : Nat) : wordSum (words (List.replicate n 0x00#8)) = 0 := by
  induction n using Nat.twoStepInduction with
  | zero | one => rfl
  | more n ih _ =>
    rw [List.replicate_succ, List.replicate_succ, words_cons_cons, wordSum_cons, ih]
    rfl

/-- Settles O31: the ranges by `sum16_lt`, the zero payload by `wordSum_words_replicate_zero`, the last value by evaluation. -/
theorem checksumIsNeverZero : Obligations.ChecksumIsNeverZero := by
  refine ⟨fun seq p => ⟨Nat.le_of_lt_succ (sum16_lt _), checksum_ne_zero seq p, verify_zero seq p,
    checksum_eq_ffff_iff seq p, sum16_eq_zero_iff _⟩, wordSum_ffff_mod, fun n => ?_, by decide⟩
  rw [checksum_eq_ffff_iff, ← List.replicate_succ, sum16, wordSum_words_replicate_zero, Nat.zero_mod]

/-! ## What `verify` accepts (R67, R81) -/

theorem verify_iff (seq : Byte) (p : List Byte) (c : Half) : verify seq p c = true ↔ c = checksum seq p := by
  have hlt := sum16_lt (seq :: p)
  rw [verify_eq_decide, decide_eq_true_iff, ← BitVec.toNat_inj, checksum_toNat]
  omega

/-- Settles O32. -/
theorem verifyAcceptsExactlyTheChecksum : Obligations.VerifyAcceptsExactlyTheChecksum := verify_iff

theorem isCorrupted_eq_not_verify (b0 b1 b2 : Byte) (p : List Byte) :
    isCorrupted (b0 :: b1 :: b2 :: p) = !verify b0 p (word b1 b2) := by
  rw [Bool.eq_iff_iff, isCorrupted_eq_decide, decide_eq_true_iff, Bool.not_eq_true', ← Bool.not_eq_true, verify_iff]
  exact not_congr eq_comm

/-- Settles O40. -/
theorem corruptedIsNotVerified : Obligations.CorruptedIsNotVerified := isCorrupted_eq_not_verify

/-! ## `addmod` (R68) -/

section
variable {a : Half} (ha : a.toNat ≤ 65534) (w : Half)
include ha

theorem addmod_toNat : (addmod a w).toNat = (a.toNat + w.toNat) % 65535 := by
  have hw := w.isLt
  simp only [addmod, sumMod]
  split <;> simp only [BitVec.toNat_ofNat] <;> omega

/-- The accumulator stays below 65535, so one conditional subtraction is enough each time. -/
theorem addmod_le : (addmod a w).toNat ≤ 65534 := by
  rw [addmod_toNat ha]
  omega

theorem addmod_of_carry (h : 65536 ≤ a.toNat + w.toNat) : addmod a w = a + w + 1#16 := by
  have hw := w.isLt
  apply BitVec.eq_of_toNat_eq
  simp only [addmod_toNat ha, BitVec.toNat_add, BitVec.toNat_ofNat]
  omega

theorem addmod_of_eq (h : a.toNat + w.toNat = 65535) : addmod a w = 0x0000#16 := by
  apply BitVec.eq_of_toNat_eq
  rw [addmod_toNat ha, h]
  rfl

theorem addmod_of_lt (h : a.toNat + w.toNat < 65535) : addmod a w = a + w := by
  apply BitVec.eq_of_toNat_eq
  rw [addmod_toNat ha, BitVec.toNat_add]
  omega

end

theorem foldl_addmod_toNat (ws : List Half) {a : Half} (ha : a.toNat ≤ 65534) :
    (ws.foldl addmod a).toNat = (a.toNat + wordSum ws) % 65535 := by
  induction ws generalizing a with
  | nil => exact (Nat.mod_eq_of_lt (Nat.lt_succ_of_le ha)).symm
  | cons w ws ih => rw [List.foldl_cons, ih (addmod_le ha w), addmod_toNat ha, Nat.mod_add_mod, wordSum_cons, Nat.add_assoc]

theorem foldl_addmod_words (bs : List Byte) : ((words bs).foldl addmod 0x0000#16).toNat = sum16 bs := by
  rw [foldl_addmod_toNat _ (by decide), sum16, BitVec.toNat_ofNat, Nat.zero_mod, Nat.zero_add]

/-- Settles O33, by the three cases of the sum of accumulator and word. -/
theorem addmodReducesOnce : Obligations.AddmodReducesOnce := by
  refine ⟨foldl_addmod_words, fun a w ha => ⟨addmod_toNat ha w, addmod_le ha w, addmod_of_carry ha w, fun h => ⟨?_, ?_⟩,
    addmod_of_lt ha w⟩⟩
  · apply BitVec.eq_of_toNat_eq
    rw [BitVec.toNat_add, h]
    rfl
  · exact addmod_of_eq ha w h

/-! ## The byte-serial engine (R69 to R72, R88) -/

/-- An engine with no byte waiting that is fed `bs` and finished adds the words of `bs` to `ACC`, and keeps `STOR`: two bytes make
one `addmod`, and an odd last byte is padded by the finish. -/
theorem Engine.finish_absorbAll (e : Engine) (he : e.ph = false) (bs : List Byte) :
    (e.absorbAll bs).finish.acc = (words bs).foldl addmod e.acc ∧ (e.absorbAll bs).finish.ph = false ∧
      (e.absorbAll bs).finish.stor = e.stor := by
  induction bs using List.twoStepInduction generalizing e with
  | nil => simp [Engine.absorbAll, Engine.finish, he]
  | singleton b => simp [Engine.absorbAll, Engine.absorb, Engine.finish, he]
  | cons_cons h l bs ih _ =>
    have hpair : (e.absorb h).absorb l = { e with hold := h, acc := addmod e.acc (word h l), ph := false } := by
      simp [Engine.absorb, he]
    simpa [Engine.absorbAll, hpair] using ih ((e.absorb h).absorb l) (by rw [hpair])

/-- Start leaves no byte waiting and `ACC = 0`, so the run over any bytes leaves their `sum16`. -/
theorem Engine.start_absorbAll_finish (e : Engine) (bs : List Byte) :
    (e.start.absorbAll bs).finish.acc.toNat = sum16 bs ∧ (e.start.absorbAll bs).finish.ph = false ∧
      (e.start.absorbAll bs).finish.stor = e.stor := by
  obtain ⟨hacc, hph, hstor⟩ := e.start.finish_absorbAll rfl bs
  rw [hacc]
  exact ⟨foldl_addmod_words bs, hph, hstor⟩

/-- Settles O36: the engine absorbs the tag as the first byte of `[seq] ‖ payload`. -/
theorem engineComputesTheSum : Obligations.EngineComputesTheSum := by
  intro e seq p
  obtain ⟨hacc, hph, -⟩ : (e.sum seq p).acc.toNat = sum16 (seq :: p) ∧ (e.sum seq p).ph = false ∧ _ :=
    e.start_absorbAll_finish (seq :: p)
  have hlt := sum16_lt (seq :: p)
  refine ⟨hacc, hph, ?_, fun c => by rw [verify_eq_decide, hacc]⟩
  apply BitVec.eq_of_toNat_eq
  rw [checksum_toNat, BitVec.toNat_sub, hacc, BitVec.toNat_ofNat]
  omega

/-- Settles O37: picking up `STOR` changes nothing that the absorbing reads, so the run is that of an engine that held the stored
checksum from the start. -/
theorem engineDecidesCorruption : Obligations.EngineDecidesCorruption := by
  intro e raw hlen
  match raw, hlen with
  | b0 :: b1 :: b2 :: p, _ =>
    obtain ⟨hacc, -, hstor⟩ := Engine.start_absorbAll_finish { e with stor := word b1 b2 } (b0 :: p)
    have hrun : e.sumFrame (b0 :: b1 :: b2 :: p) =
        (({ e with stor := word b1 b2 } : Engine).start.absorbAll (b0 :: p)).finish := rfl
    rw [isCorrupted_eq_not_verify, verify_eq_decide, Engine.frameCorrupted, hrun, hacc, hstor, bne, beq_eq_decide]

end Sys2Proof.Machine
end

section
/-! The framer's round trips and the two ACK frames (41_packet_framer.md R82, 30_encoding.md R52). -/

namespace Sys2Proof.Machine

@[simp] theorem hasSeq_encodeFrame_iff (seq s : Byte) (p : List Byte) (c : Half) :
    hasSeq s (encodeFrame seq p c) = true ↔ s = seq := by
  rw [encodeFrame, hasSeq, beq_iff_eq, eq_comm]

@[simp] theorem payloadOf_encodeFrame (seq : Byte) (p : List Byte) (c : Half) : payloadOf (encodeFrame seq p c) = p := rfl

theorem isCorrupted_encodeFrame_iff (seq : Byte) (p : List Byte) (c : Half) :
    isCorrupted (encodeFrame seq p c) = true ↔ c ≠ checksum seq p := by
  rw [encodeFrame, isCorrupted_eq_decide, word_hi8_lo8, decide_eq_true_iff, ne_comm]

theorem isAck_encodeFrame_iff (seq s : Byte) (p : List Byte) (c : Half) :
    isAck (encodeFrame seq p c) s = true ↔ s = seq ∧ p = ackMarker := by
  rw [isAck_iff_marker, hasSeq_encodeFrame_iff, payloadOf_encodeFrame]

/-- Every frame of 3 bytes or more is `encode` of its own fields. -/
theorem cons_eq_encodeFrame (b0 b1 b2 : Byte) (p : List Byte) : b0 :: b1 :: b2 :: p = encodeFrame b0 p (word b1 b2) := by
  rw [encodeFrame, hi8_word, lo8_word]

/-- Settles O38, one lemma for each round trip. -/
theorem framerRoundTrips : Obligations.FramerRoundTrips := by
  refine ⟨fun seq s p c => ⟨hasSeq_encodeFrame_iff seq s p c, payloadOf_encodeFrame seq p c,
    ⟨hi8 c, lo8 c, rfl, rfl, word_hi8_lo8 c⟩, isCorrupted_encodeFrame_iff seq p c, isAck_encodeFrame_iff seq s p c,
    isCorrupted_encodeFrame_checksum seq p⟩, fun raw hlen => ?_⟩
  match raw, hlen with
  | b0 :: b1 :: b2 :: p, _ => exact cons_eq_encodeFrame b0 b1 b2 p

/-! ## The ACK frames (R52) -/

/-- The tag and the payload of a valid ACK frame are given, and its checksum is theirs. -/
theorem eq_encodeFrame_of_valid_ack {seq : Byte} {raw : List Byte} (hack : isAck raw seq = true)
    (hvalid : isCorrupted raw = false) : raw = encodeFrame seq ackMarker (checksum seq ackMarker) := by
  have hlen : ¬ raw.length < headerLen := fun h => by
    rw [isAck_of_runt h] at hack
    cases hack
  match raw, hlen with
  | b0 :: b1 :: b2 :: p, _ =>
    rw [cons_eq_encodeFrame] at hack hvalid ⊢
    obtain ⟨rfl, rfl⟩ := (isAck_encodeFrame_iff _ _ _ _).mp hack
    have hsum : word b1 b2 = checksum seq ackMarker := by
      rw [← Bool.not_eq_true, isCorrupted_encodeFrame_iff] at hvalid
      exact not_not.mp hvalid
    rw [hsum]
  | [], h | [_], h | [_, _], h => simp at h

theorem encodeFrame_ack0 :
    encodeFrame 0x00#8 ackMarker (checksum 0x00#8 ackMarker) = [0x00#8, 0xBC#8, 0x73#8, 0x41#8, 0x43#8, 0x4B#8] := by decide

theorem encodeFrame_ack1 :
    encodeFrame 0x01#8 ackMarker (checksum 0x01#8 ackMarker) = [0x01#8, 0xBB#8, 0x73#8, 0x41#8, 0x43#8, 0x4B#8] := by decide

theorem eq_zero_or_one_of_toNat_le {seq : Byte} (h : seq.toNat ≤ 1) : seq = 0x00#8 ∨ seq = 0x01#8 :=
  (Nat.le_one_iff_eq_zero_or_eq_one.mp h).imp (fun h0 => BitVec.eq_of_toNat_eq h0) (fun h1 => BitVec.eq_of_toNat_eq h1)

/-- Settles O42: a valid ACK frame is the frame of its tag by `eq_encodeFrame_of_valid_ack`, and there are two tags. -/
theorem exactlyTwoAckFrames : Obligations.ExactlyTwoAckFrames := by
  refine ⟨encodeFrame_ack0, encodeFrame_ack1, fun seq raw hseq hack hvalid => ?_⟩
  rw [eq_encodeFrame_of_valid_ack hack hvalid]
  obtain rfl | rfl := eq_zero_or_one_of_toNat_le hseq
  · exact .inl encodeFrame_ack0
  · exact .inr encodeFrame_ack1

end Sys2Proof.Machine
end

section
/-! What the checksum detects and what it does not (70_reset_and_hazards.md R126). -/

namespace Sys2Proof.Machine

/-! ## Changes that are not detected -/

/-- Only the residue of the word sum and the stored checksum count. -/
theorem isCorrupted_congr {b0 b0' : Byte} (b1 b2 : Byte) {p p' : List Byte}
    (h : wordSum (words (b0 :: p)) % 65535 = wordSum (words (b0' :: p')) % 65535) :
    isCorrupted (b0 :: b1 :: b2 :: p) = isCorrupted (b0' :: b1 :: b2 :: p') := by
  have hsum : sum16 (b0 :: p) = sum16 (b0' :: p') := h
  rw [isCorrupted_eq_not_verify, isCorrupted_eq_not_verify, verify_eq_decide, verify_eq_decide, hsum]

theorem isCorrupted_congr_wordSum {b0 : Byte} (b1 b2 : Byte) {p p' : List Byte}
    (h : wordSum (words (b0 :: p)) = wordSum (words (b0 :: p'))) :
    isCorrupted (b0 :: b1 :: b2 :: p) = isCorrupted (b0 :: b1 :: b2 :: p') :=
  isCorrupted_congr b1 b2 (congrArg (· % 65535) h)

/-- A 0x00 byte at the end is the low byte that an odd last byte is padded with, or makes a word 0x0000 of its own. -/
theorem wordSum_words_append_zero (bs : List Byte) : wordSum (words (bs ++ [0x00#8])) = wordSum (words bs) := by
  induction bs using List.twoStepInduction with
  | nil | singleton b => rfl
  | cons_cons h l bs ih _ =>
    rw [List.cons_append, List.cons_append, words_cons_cons, words_cons_cons, wordSum_cons, ih, wordSum_cons]

/-- An even number of bytes ends at a word's end. -/
theorem words_append {xs : List Byte} (h : xs.length % 2 = 0) (ys : List Byte) : words (xs ++ ys) = words xs ++ words ys := by
  induction xs using List.twoStepInduction with
  | nil => rfl
  | singleton b => cases h
  | cons_cons x y xs ih _ =>
    have heven : xs.length % 2 = 0 := by
      simp only [List.length_cons] at h
      omega
    rw [List.cons_append, List.cons_append, words_cons_cons, words_cons_cons, ih heven, List.cons_append]

/-- The word after an even number of bytes counts once, wherever it stands. -/
theorem wordSum_words_pair {xs : List Byte} (hxs : xs.length % 2 = 0) (h l : Byte) (ys : List Byte) :
    wordSum (words (xs ++ [h, l] ++ ys)) = wordSum (words xs) + (word h l).toNat + wordSum (words ys) := by
  rw [List.append_assoc, words_append hxs, wordSum_append, Nat.add_assoc]
  rfl

theorem wordSum_words_exchange {xs ys : List Byte} (hxs : xs.length % 2 = 0) (hys : ys.length % 2 = 0) (h l h' l' : Byte)
    (zs : List Byte) : wordSum (words (xs ++ [h, l] ++ ys ++ [h', l'] ++ zs)) =
      wordSum (words (xs ++ [h', l'] ++ ys ++ [h, l] ++ zs)) := by
  have heven (a b : Byte) : (xs ++ [a, b] ++ ys).length % 2 = 0 := by
    simp only [List.length_append, List.length_cons, List.length_nil]
    omega
  simp only [wordSum_words_pair (heven _ _), wordSum_words_pair hxs]
  omega

/-- Settles O58: in each of the first four cases the word sum stays the same, or the same modulo 65535; the last is the general
`isCorrupted_congr`. -/
theorem undetectedChanges : Obligations.UndetectedChanges := by
  have hodd {b0 : Byte} {p : List Byte} (hp : p.length % 2 = 1) : (b0 :: p).length % 2 = 0 := by
    rw [List.length_cons]
    omega
  refine ⟨fun b0 b1 b2 p _ => ?_, fun b0 b1 b2 p => ?_, fun b0 b1 b2 h l h' l' p q r hp hq => ?_,
    fun b0 b1 b2 p r hp => ?_, fun _ _ b1 b2 _ _ => isCorrupted_congr b1 b2⟩
  · exact isCorrupted_congr_wordSum b1 b2 (wordSum_words_append_zero (b0 :: p))
  · have hone := wordSum_words_append_zero (b0 :: p)
    have htwo := wordSum_words_append_zero (b0 :: p ++ [0x00#8])
    rw [List.append_assoc] at htwo
    exact isCorrupted_congr_wordSum b1 b2 (htwo.trans hone)
  · exact isCorrupted_congr_wordSum b1 b2 (wordSum_words_exchange (hodd hp) hq h l h' l' r)
  · have hzero := wordSum_words_pair (hodd (b0 := b0) hp) 0x00#8 0x00#8 r
    have hones := wordSum_words_pair (hodd (b0 := b0) hp) 0xFF#8 0xFF#8 r
    refine isCorrupted_congr b1 b2 ?_
    rw [List.cons_append, List.cons_append] at hzero hones
    rw [hzero, hones, word_toNat, word_toNat]
    simp only [BitVec.toNat_ofNat]
    omega

/-! ## A single changed bit -/

/-- What a byte at offset `k` counts in the word sum: as a high byte or as a low byte. -/
def byteWeight (k : Nat) : Nat := if k % 2 = 0 then 256 else 1

@[simp] theorem byteWeight_zero : byteWeight 0 = 256 := rfl
@[simp] theorem byteWeight_one : byteWeight 1 = 1 := rfl
@[simp] theorem byteWeight_add_two (k : Nat) : byteWeight (k + 2) = byteWeight k := by
  rw [byteWeight, Nat.add_mod_right, byteWeight]

/-- Changing one byte changes the word sum by the byte's difference times its weight. -/
theorem wordSum_words_set {bs : List Byte} {k : Nat} {b : Byte} (hb : bs[k]? = some b) (b' : Byte) :
    wordSum (words (bs.set k b')) + byteWeight k * b.toNat = wordSum (words bs) + byteWeight k * b'.toNat := by
  induction bs using List.twoStepInduction generalizing k with
  | nil => cases hb
  | singleton c =>
    obtain rfl : k = 0 := by
      by_contra hk
      rw [List.getElem?_eq_none (by simpa using Nat.one_le_iff_ne_zero.mpr hk)] at hb
      cases hb
    cases hb
    simp only [List.set_cons_zero, words_singleton, wordSum_cons, word_toNat, byteWeight_zero]
    omega
  | cons_cons h l bs ih _ =>
    match k, hb with
    | 0, hb | 1, hb =>
      cases hb
      simp only [List.set_cons_zero, List.set_cons_succ, words_cons_cons, wordSum_cons, word_toNat, byteWeight_zero, byteWeight_one]
      omega
    | k + 2, hb =>
      rw [List.set_cons_succ, List.set_cons_succ, words_cons_cons, words_cons_cons, wordSum_cons, wordSum_cons, byteWeight_add_two,
        Nat.add_assoc, ih hb, Nat.add_assoc]

/-- Everything in a frame of 3 bytes or more that the validity check adds up: the words of tag and payload, and the stored
checksum; 0 for a runt. -/
def frameTotal : List Byte → Nat
  | b0 :: b1 :: b2 :: p => wordSum (words (b0 :: p)) + (word b1 b2).toNat
  | _ => 0

/-- A valid frame is one of 3 bytes or more whose total is a multiple of 65535. -/
theorem valid_frame_total {raw : List Byte} (h : isCorrupted raw = false) : 3 ≤ raw.length ∧ frameTotal raw % 65535 = 0 := by
  match raw, h with
  | b0 :: b1 :: b2 :: p, h =>
    rw [isCorrupted_eq_not_verify, verify_eq_decide, Bool.not_eq_false', decide_eq_true_iff] at h
    simp only [sum16, sumMod] at h
    simp only [frameTotal, List.length_cons]
    omega

/-- Changing one byte of a frame changes its total by the byte's difference times 256 or 1. -/
theorem frameTotal_set {raw : List Byte} (hlen : 3 ≤ raw.length) {k : Nat} {b : Byte} (hb : raw[k]? = some b) (b' : Byte) :
    ∃ w, (w = 256 ∨ w = 1) ∧ frameTotal (raw.set k b') + w * b.toNat = frameTotal raw + w * b'.toNat := by
  match raw, hlen with
  | b0 :: b1 :: b2 :: p, _ =>
    match k, hb with
    | 0, hb =>
      have hset := wordSum_words_set (bs := b0 :: p) (k := 0) hb b'
      refine ⟨256, .inl rfl, ?_⟩
      simp only [List.set_cons_zero, frameTotal, byteWeight_zero] at hset ⊢
      omega
    | 1, hb =>
      cases hb
      refine ⟨256, .inl rfl, ?_⟩
      simp only [List.set_cons_zero, List.set_cons_succ, frameTotal, word_toNat]
      omega
    | 2, hb =>
      cases hb
      refine ⟨1, .inr rfl, ?_⟩
      simp only [List.set_cons_zero, List.set_cons_succ, frameTotal, word_toNat]
      omega
    | k + 3, hb =>
      have hset := wordSum_words_set (bs := b0 :: p) (k := k + 1) hb b'
      refine ⟨byteWeight (k + 1), ite_eq_or_eq _ _ _, ?_⟩
      simp only [List.set_cons_succ, frameTotal] at hset ⊢
      omega

theorem toNat_xor_bit_of_clear {b : Byte} {j : Nat} (hj : j < 8) (hclear : b.getLsbD j = false) :
    (b ^^^ BitVec.twoPow 8 j).toNat = b.toNat + 2 ^ j := by
  have hand : b &&& BitVec.twoPow 8 j = 0#8 := by
    rw [BitVec.and_twoPow, hclear]
    rfl
  have hxor : b ^^^ BitVec.twoPow 8 j = b + BitVec.twoPow 8 j := by
    rw [BitVec.add_eq_or_of_and_eq_zero _ _ hand]
    refine BitVec.eq_of_getLsbD_eq fun i _ => ?_
    have hbit := congrArg (BitVec.getLsbD · i) hand
    simp only [BitVec.getLsbD_and, BitVec.getLsbD_zero] at hbit
    rw [BitVec.getLsbD_xor, BitVec.getLsbD_or]
    cases hb : b.getLsbD i <;> simp_all
  rw [hxor, BitVec.toNat_add_of_and_eq_zero hand, BitVec.toNat_twoPow_of_lt hj]

/-- Flipping bit `j` adds `2 ^ j` when the bit is clear and takes it away when it is set. -/
theorem toNat_xor_bit (b : Byte) {j : Nat} (hj : j < 8) :
    (b ^^^ (1#8 <<< j)).toNat = b.toNat + 2 ^ j ∨ (b ^^^ (1#8 <<< j)).toNat + 2 ^ j = b.toNat := by
  change (b ^^^ BitVec.twoPow 8 j).toNat = _ ∨ (b ^^^ BitVec.twoPow 8 j).toNat + _ = _
  cases hbit : b.getLsbD j with
  | false => exact .inl (toNat_xor_bit_of_clear hj hbit)
  | true =>
    have hclear : (b ^^^ BitVec.twoPow 8 j).getLsbD j = false := by simp [hbit, hj]
    have hback := toNat_xor_bit_of_clear hj hclear
    rw [BitVec.xor_assoc, BitVec.xor_self, BitVec.xor_zero] at hback
    exact .inr hback.symm

/-- Settles O57: the flip changes the total by a power of two below 65535, so the total is no multiple of 65535 any more. -/
theorem singleBitFlipIsDetected : Obligations.SingleBitFlipIsDetected := by
  intro raw k j b hvalid hb hj
  by_contra hcor
  obtain ⟨hlen, htotal⟩ := valid_frame_total hvalid
  obtain ⟨-, htotal'⟩ := valid_frame_total (Bool.not_eq_true _ ▸ hcor)
  obtain ⟨w, hw, hset⟩ := frameTotal_set hlen hb (b ^^^ (1#8 <<< j))
  have hpos := Nat.two_pow_pos j
  have hlt : 2 ^ j < 2 ^ 8 := Nat.pow_lt_pow_right (by decide) hj
  rcases hw with rfl | rfl <;> rcases toNat_xor_bit b hj with hflip | hflip <;> omega

end Sys2Proof.Machine
end

section
/-! The assembler's pseudo-instructions `PLOAD`, `FLOAD` and `CHECK` as runs (30_encoding.md R59), and the composite commands as
sequences of others (43_composite_commands.md R97). -/

namespace Sys2Proof.Machine

variable {s t : State}

/-! ## Runs of encoded commands -/

theorem issueWord_encode {i : Instr} (hwf : i.WellFormed) (s : State) : issueWord (encode i) s = exec i s :=
  issueWord_decoded (decode_encode hwf)

theorem runWords_encode_cons {i : Instr} (hwf : i.WellFormed) (h : exec i s = .next t) (cws : List CmdWord) :
    runWords (encode i :: cws) s = runWords cws t :=
  runWords_cons ((issueWord_encode hwf s).trans h) cws

theorem runWords_append {cws : List CmdWord} (h : runWords cws s = .next t) (cws' : List CmdWord) :
    runWords (cws ++ cws') s = runWords cws' t := by
  induction cws generalizing s with
  | nil =>
    cases h
    rfl
  | cons cw cws ih =>
    rw [runWords] at h
    rw [List.cons_append, runWords]
    split at h
    · exact ih h
    · cases h
    · cases h

/-! ## Pushing bytes one by one (R59) -/

/-- The run of the pushes of `bs` from a state that holds the bytes `p`, where `Holds q t` says that `t` holds exactly the bytes `q`
and one push below the capacity appends its byte. -/
theorem runWords_pushes {push : Byte → Instr} {cap : Nat} {Holds : List Byte → State → Prop}
    (hwf : ∀ b, (push b).WellFormed)
    (hpush : ∀ p s b, Holds p s → p.length < cap → ∃ t, exec (push b) s = .next t ∧ Holds (p ++ [b]) t)
    (bs : List Byte) {p : List Byte} (hs : Holds p s) (hcap : p.length + bs.length ≤ cap) :
    ∃ t, runWords ((bs.map push).map encode) s = .next t ∧ Holds (p ++ bs) t := by
  induction bs generalizing s p with
  | nil => exact ⟨s, rfl, (List.append_nil p).symm ▸ hs⟩
  | cons b bs ih =>
    rw [List.length_cons] at hcap
    obtain ⟨u, hu, hholds⟩ := hpush p s b hs (by omega)
    obtain ⟨t, hrun, ht⟩ := ih hholds (by rw [List.length_append, List.length_singleton]; omega)
    refine ⟨t, (runWords_encode_cons (hwf b) hu _).trans hrun, ?_⟩
    rwa [List.append_assoc] at ht

/-- `t` is the running state `s` but for its payload, which is `p`. -/
structure HoldsPayload (s : State) (p : List Byte) (t : State) : Prop where
  eq : t = { s with plen := t.plen, pbuf := t.pbuf }
  payload : t.payload = some p

/-- `t` is the running state `s` but for its frame, which is `f`. -/
structure HoldsFrame (s : State) (f : List Byte) (t : State) : Prop where
  eq : t = { s with flen := t.flen, fbuf := t.fbuf }
  frame : t.frame = some f

theorem HoldsPayload.push (hs : s.fault = .none) (p : List Byte) (t : State) (b : Byte) (ht : HoldsPayload s p t)
    (hlt : p.length < s.config.maxPayload) : ∃ u, exec (.ppush b) t = .next u ∧ HoldsPayload s (p ++ [b]) u := by
  obtain ⟨heq, hp⟩ := ht
  have hfault : t.fault = .none := by rw [heq]; exact hs
  have hroom : t.plen < t.config.maxPayload := by
    rw [← State.payload_length hp, show t.config = s.config by rw [heq]]
    exact hlt
  exact ⟨_, exec_ppush_of_lt hfault b hroom, by rw [State.appendPayload, heq], State.payload_appendPayload b hp hroom⟩

theorem HoldsFrame.push (hs : s.fault = .none) (f : List Byte) (t : State) (b : Byte) (ht : HoldsFrame s f t)
    (hlt : f.length < s.config.maxFrame) : ∃ u, exec (.fpush b) t = .next u ∧ HoldsFrame s (f ++ [b]) u := by
  obtain ⟨heq, hf⟩ := ht
  have hfault : t.fault = .none := by rw [heq]; exact hs
  have hroom : t.flen < t.config.maxFrame := by
    rw [← State.frame_length hf, show t.config = s.config by rw [heq]]
    exact hlt
  exact ⟨_, exec_fpush_of_lt hfault b hroom, by rw [State.appendFrame, heq], State.frame_appendFrame b hf hroom⟩

theorem runWords_pload (hs : s.fault = .none) {bs : List Byte} (hfit : bs.length ≤ s.config.maxPayload) :
    ∃ t, runWords ((Pseudo.pload bs).expand.map encode) s = .next t ∧ HoldsPayload s bs t := by
  obtain ⟨t, hrun, ht⟩ := runWords_pushes (fun _ => rfl) (HoldsPayload.push hs) bs
    (s := { s with plen := 0, pbuf := [] }) (p := []) ⟨rfl, rfl⟩ (by simpa using hfit)
  exact ⟨t, (runWords_encode_cons (i := .pclr) rfl (exec_pclr_eq hs) _).trans hrun, ht⟩

theorem runWords_fload (hs : s.fault = .none) {bs : List Byte} (hfit : bs.length ≤ s.config.maxFrame) :
    ∃ t, runWords ((Pseudo.fload bs).expand.map encode) s = .next t ∧ HoldsFrame s bs t := by
  obtain ⟨t, hrun, ht⟩ := runWords_pushes (fun _ => rfl) (HoldsFrame.push hs) bs
    (s := { s with flen := 0, fbuf := [] }) (p := []) ⟨rfl, rfl⟩ (by simpa using hfit)
  exact ⟨t, (runWords_encode_cons (i := .fclr) rfl (exec_fclr_eq hs) _).trans hrun, ht⟩

/-- Settles O51, by `runWords_pload` and `runWords_fload`. -/
theorem loadPseudoInstructionsLoad : Obligations.LoadPseudoInstructionsLoad := by
  refine ⟨fun s bs hs hfit => ?_, fun s bs hs hfit => ?_, rfl⟩
  · obtain ⟨t, hrun, heq, hp⟩ := runWords_pload hs hfit
    exact ⟨t, hrun, heq, hp, (State.payload_length hp).symm⟩
  · obtain ⟨t, hrun, heq, hf⟩ := runWords_fload hs hfit
    exact ⟨t, hrun, heq, hf, (State.frame_length hf).symm⟩

/-! ## Composites and their sequences (R97) -/

/-- `ENC` after `CSUM`, with a tag that may be sent, leaves what `MKPKT` leaves. -/
theorem exec_enc_after_csum {p : List Byte} (hs : s.fault = .none) (hseq : s.seq.toNat ≤ 1) (hp : s.payload = some p)
    (hfit : p.length + headerLen ≤ s.config.maxFrame) :
    exec .enc { s with csum := checksum s.seq p } = .next (s.loadPacket p) :=
  exec_enc_eq (s := { s with csum := checksum s.seq p }) hs hseq hp hfit

/-- `MKPKT` after `PLOAD` of the marker leaves what `MKACK` leaves, but for the payload. -/
theorem runWords_pload_mkpkt (hs : s.fault = .none) (hvalid : s.config.Valid) (hseq : s.seq.toNat ≤ 1) :
    ∃ v, runWords (((Pseudo.pload ackMarker).expand ++ [Instr.mkpkt]).map encode) s = .next v ∧
      s.loadPacket ackMarker = { v with plen := s.plen, pbuf := s.pbuf } := by
  have hmarker : ackMarker.length ≤ s.config.maxPayload := Nat.le_sub_of_add_le hvalid
  obtain ⟨u, hload, heq, hp⟩ := runWords_pload hs hmarker
  rw [heq] at hp hload
  have hpacket := exec_mkpkt_eq (s := { s with plen := u.plen, pbuf := u.pbuf }) hs hseq hp hvalid
  rw [List.map_append, runWords_append hload]
  exact ⟨_, runWords_encode_cons (i := .mkpkt) rfl hpacket [], rfl⟩

/-- Settles O50: a bounded state has a payload whose packet fits, so `CSUM` completes and each of the two frame-building commands
either faults on the tag or loads the packet. -/
theorem compositesEqualTheirSequences : Obligations.CompositesEqualTheirSequences := by
  refine ⟨fun s hs hb => ?_, fun s hvalid hs hseq => ?_⟩
  · obtain ⟨p, hp⟩ := hb.exists_payload
    have hfit := hb.packet_fits hp
    rcases Nat.lt_or_ge 1 s.seq.toNat with hseq | hseq
    · exact ⟨_, _, _, exec_csum_eq hs hp, exec_enc_of_seq_gt (s := { s with csum := checksum s.seq p }) hs hseq,
        exec_mkpkt_of_seq_gt hs hseq, fun hle => absurd hle (Nat.not_le.mpr hseq), fun _ => ⟨rfl, rfl⟩⟩
    · exact ⟨_, _, _, exec_csum_eq hs hp, exec_enc_after_csum hs hseq hp hfit, exec_mkpkt_eq hs hseq hp hfit,
        fun _ => rfl, fun hlt => absurd hlt (Nat.not_lt.mpr hseq)⟩
  · obtain ⟨v, hrun, hv⟩ := runWords_pload_mkpkt hs hvalid hseq
    exact ⟨v, _, hrun, exec_mkack_eq hs hvalid hseq, hv⟩

end Sys2Proof.Machine
end

section
/-! What each instruction leaves unchanged: registers, flags, configuration and buffers (10_state.md R28, R33; 20_memory.md R42;
log entry 4). -/

namespace Sys2Proof.Machine

variable {i : Instr} {s t : State}

/-! ## Registers, flags and what is not state of the block -/

/-- The write sets of R33 for the registers other than the fault registers, and what no instruction writes. -/
structure KeepsRegisters (i : Instr) (s t : State) : Prop where
  seq : (∀ b, i ≠ .wrseq b) → t.seq = s.seq
  csum : (∀ c, i ≠ .wrcsum c) → i ∉ [Instr.csum, .mkpkt, .mkack] → t.csum = s.csum
  res : i ∉ [Instr.vrfy, .hseq, .isack, .iscor] → t.res = s.res
  runt : i ∉ [Instr.hseq, .isack, .pld, .iscor] → t.runt = s.runt
  pending : t.pending = s.pending
  config : t.config = s.config

theorem KeepsRegisters.refl (i : Instr) (s : State) : KeepsRegisters i s s :=
  ⟨fun _ => rfl, fun _ _ => rfl, fun _ => rfl, fun _ => rfl, rfl, rfl⟩

/-- Fault entry writes the fault registers only, whatever the instruction (60_exceptions.md R102). -/
theorem KeepsRegisters.raise (i : Instr) (s : State) (x : FaultCode) (cw : CmdWord) : KeepsRegisters i s (s.raise x cw) :=
  ⟨fun _ => rfl, fun _ _ => rfl, fun _ => rfl, fun _ => rfl, rfl, rfl⟩

theorem exec_keepsRegisters (h : exec i s = .next t) : KeepsRegisters i s t := by
  by_cases hs : s.fault = .none
  · have hnext := exec_running_next hs h
    cases i with
    | frameData | frameAck0 | frameAck1 => obtain rfl : t = _ := hnext; exact .raise ..
    | wrseq | wrcsum | pclr | fclr => obtain rfl : t = _ := hnext; constructor <;> simp
    | csum | vrfy => obtain ⟨p, -, rfl⟩ := hnext; constructor <;> simp
    | hseq | isack | iscor => obtain ⟨-, rfl⟩ | ⟨-, f, -, rfl⟩ := hnext <;> constructor <;> simp
    | pld => obtain ⟨-, rfl⟩ | ⟨-, f, -, -, rfl⟩ := hnext <;> constructor <;> simp
    | ppush | fpush =>
      obtain ⟨-, rfl⟩ | ⟨-, rfl⟩ := hnext
      · exact .raise ..
      · constructor <;> simp
    | enc | mkpkt =>
      obtain ⟨-, rfl⟩ | ⟨-, p, -, -, rfl⟩ := hnext
      · exact .raise ..
      · constructor <;> simp
    | mkack =>
      obtain ⟨-, rfl⟩ | ⟨-, -, rfl⟩ := hnext
      · exact .raise ..
      · constructor <;> simp
  · rw [exec_halted hs] at h
    cases h
    exact .refl ..

theorem exec_fcmd_of_no_fault (h : exec i s = .next t) (ht : t.fault = .none) : t.fcmd = s.fcmd := by
  by_cases hs : s.fault = .none
  · have hends := exec_endsWith hs h
    exact hends.fcmd_eq (hends.fault_eq.symm.trans ht)
  · rw [exec_halted hs] at h
    cases h
    rfl

theorem eq_of_exec_halted (hs : s.Halted) (h : exec i s = .next t) : t = s :=
  Host.Outcome.next.inj (h.symm.trans (exec_halted hs i))

/-- Settles O52, by `exec_keepsRegisters`; the fault registers by `exec_fcmd_of_no_fault`, and a halted block stays as it is. -/
theorem registersOutsideTheWriteSetStay : Obligations.RegistersOutsideTheWriteSetStay := by
  intro i s t h
  obtain ⟨hseq, hcsum, hres, hrunt, hpending, hconfig⟩ := exec_keepsRegisters h
  refine ⟨hseq, hcsum, hres, hrunt, exec_fcmd_of_no_fault h, fun hs => ?_, hpending, hconfig⟩
  rw [eq_of_exec_halted hs h]
  exact ⟨rfl, rfl⟩

/-! ## The configuration is fixed (R16) -/

theorem issueWord_config {cw : CmdWord} (h : issueWord cw s = .next t) : t.config = s.config := by
  cases hd : decode cw with
  | ok i =>
    rw [issueWord_decoded hd] at h
    exact (exec_keepsRegisters h).config
  | error x =>
    rw [issueWord_illegal hd] at h
    obtain ⟨-, rfl⟩ | ⟨-, rfl⟩ := illegalWord_next.mp h <;> rfl

theorem step_config (h : step s = .next t) : t.config = s.config := by
  match hp : s.pending with
  | [] =>
    rw [step_idle hp] at h
    cases h
    rfl
  | .command cw :: rest => exact issueWord_config (s := { s with pending := rest }) ((step_command hp).symm.trans h)
  | .reset :: rest =>
    rw [step_reset hp] at h
    cases h
    rfl

/-- Settles O59, by `step_config` and `exec_keepsRegisters`. -/
theorem configurationNeverChanges : Obligations.ConfigurationNeverChanges := fun _ _ =>
  ⟨step_config, fun _ h => (exec_keepsRegisters h).config⟩

/-! ## What an instruction may do to a buffer -/

/-- The three ways in which an instruction may use a buffer. -/
inductive BufferUse where
  /-- The buffer is not written. -/
  | keep
  /-- One byte is stored at the length. -/
  | push
  /-- The whole content is replaced. -/
  | load

/-- R33's write set of `PBUF` and `PLEN`. -/
def payloadUse : Instr → BufferUse
  | .pclr | .pld => .load
  | .ppush _ => .push
  | _ => .keep

/-- R33's write set of `FBUF` and `FLEN`. -/
def frameUse : Instr → BufferUse
  | .fclr | .enc | .mkpkt | .mkack => .load
  | .fpush _ => .push
  | _ => .keep

/-- What becomes of a buffer of capacity `cap` that holds `m` up to the length `n`: with any use it may stay as it is, a push
needs room, and a load fits. -/
inductive BufferStep (cap : Nat) (m : Memory) (n : Nat) : BufferUse → Memory → Nat → Prop where
  | kept (use : BufferUse) : BufferStep cap m n use m n
  | pushed (b : Byte) (hroom : n < cap) : BufferStep cap m n .push (m.write n b) (n + 1)
  | loaded (bs : List Byte) (hfit : bs.length ≤ cap) : BufferStep cap m n .load (Memory.ofBytes 0 bs) bs.length

section
variable {cap n n' : Nat} {m m' : Memory} {use : BufferUse}

theorem BufferStep.eq_of_keep (h : BufferStep cap m n .keep m' n') : n' = n ∧ m' = m := by
  cases h
  exact ⟨rfl, rfl⟩

theorem BufferStep.read_of_push (h : BufferStep cap m n .push m' n') {a : Nat} (ha : a ≠ n) : m'.read a = m.read a := by
  cases h with
  | kept => rfl
  | pushed b => exact Memory.read_write_other _ _ ha

theorem BufferStep.read_of_load (h : BufferStep cap m n .load m' n') {a : Nat} (ha : n' ≤ a) :
    m'.read a = m.read a ∨ m'.read a = none := by
  cases h with
  | kept => exact .inl rfl
  | loaded bs =>
    have hread := Memory.read_ofBytes 0 bs a
    rw [Nat.zero_add, List.getElem?_eq_none ha] at hread
    exact .inr hread

/-- At or past the capacity no byte gets a value (20_memory.md R42). -/
theorem BufferStep.read_past_capacity (h : BufferStep cap m n use m' n') {a : Nat} {b : Byte} (ha : cap ≤ a)
    (hb : m'.read a = some b) : m.read a = some b := by
  cases h with
  | kept => exact hb
  | pushed c hroom => rwa [Memory.read_write_other _ _ (Nat.ne_of_gt (Nat.lt_of_lt_of_le hroom ha))] at hb
  | loaded bs hfit =>
    have hread := Memory.read_ofBytes 0 bs a
    rw [Nat.zero_add, List.getElem?_eq_none (Nat.le_trans hfit ha), hb] at hread
    cases hread

theorem BufferStep.keeps_wf (h : BufferStep cap m n use m' n') (hm : m.wf) : m'.wf := by
  cases h with
  | kept => exact hm
  | pushed b => exact Memory.write_wf n b hm
  | loaded bs => exact Memory.ofBytes_wf 0 bs

end

/-! ## The buffers under each instruction -/

/-- What became of the payload buffer from `s` to `t`. -/
abbrev PayloadStep (s : State) (use : BufferUse) (t : State) : Prop :=
  BufferStep s.config.maxPayload s.pbuf s.plen use t.pbuf t.plen

/-- What became of the frame buffer from `s` to `t`. -/
abbrev FrameStep (s : State) (use : BufferUse) (t : State) : Prop :=
  BufferStep s.config.maxFrame s.fbuf s.flen use t.fbuf t.flen

theorem PayloadStep.loadPayload (s : State) {bs : List Byte} (hfit : bs.length ≤ s.config.maxPayload) :
    PayloadStep s .load (s.loadPayload bs) := by
  rw [PayloadStep, State.plen_loadPayload hfit]
  exact .loaded bs hfit

theorem FrameStep.loadFrame (s : State) {bs : List Byte} (hfit : bs.length ≤ s.config.maxFrame) :
    FrameStep s .load (s.loadFrame bs) := by
  rw [FrameStep, State.flen_loadFrame hfit]
  exact .loaded bs hfit

theorem FrameStep.loadPacket (s : State) (p : List Byte) (hfit : p.length + headerLen ≤ s.config.maxFrame) :
    FrameStep s .load (s.loadPacket p) :=
  FrameStep.loadFrame { s with csum := checksum s.seq p } hfit

theorem PayloadStep.appendPayload {s : State} (b : Byte) (h : s.plen < s.config.maxPayload) :
    PayloadStep s .push (s.appendPayload b) := by
  rw [State.appendPayload_eq b h]
  exact .pushed b h

theorem FrameStep.appendFrame {s : State} (b : Byte) (h : s.flen < s.config.maxFrame) :
    FrameStep s .push (s.appendFrame b) := by
  rw [State.appendFrame_eq b h]
  exact .pushed b h

theorem exec_bufferSteps (h : exec i s = .next t) : PayloadStep s (payloadUse i) t ∧ FrameStep s (frameUse i) t := by
  by_cases hs : s.fault = .none
  · have hnext := exec_running_next hs h
    have hempty : ([] : List Byte).length ≤ s.config.maxPayload := Nat.zero_le _
    cases i with
    | wrseq | wrcsum | frameData | frameAck0 | frameAck1 => obtain rfl : t = _ := hnext; exact ⟨.kept _, .kept _⟩
    | csum | vrfy => obtain ⟨p, -, rfl⟩ := hnext; exact ⟨.kept _, .kept _⟩
    | hseq | isack | iscor => obtain ⟨-, rfl⟩ | ⟨-, f, -, rfl⟩ := hnext <;> exact ⟨.kept _, .kept _⟩
    | pclr => obtain rfl : t = _ := hnext; exact ⟨.loadPayload s hempty, .kept _⟩
    | fclr => obtain rfl : t = _ := hnext; exact ⟨.kept _, .loadFrame s (bs := []) (Nat.zero_le _)⟩
    | ppush b =>
      obtain ⟨-, rfl⟩ | ⟨hlt, rfl⟩ := hnext
      · exact ⟨.kept _, .kept _⟩
      · exact ⟨.appendPayload b hlt, .kept _⟩
    | fpush b =>
      obtain ⟨-, rfl⟩ | ⟨hlt, rfl⟩ := hnext
      · exact ⟨.kept _, .kept _⟩
      · exact ⟨.kept _, .appendFrame b hlt⟩
    | pld =>
      obtain ⟨-, rfl⟩ | ⟨-, f, -, hfit, rfl⟩ := hnext
      · exact ⟨.loadPayload (s.setRunt true) hempty, .kept _⟩
      · exact ⟨.loadPayload (s.setRunt false) hfit, .kept _⟩
    | enc =>
      obtain ⟨-, rfl⟩ | ⟨-, p, -, hfit, rfl⟩ := hnext
      · exact ⟨.kept _, .kept _⟩
      · exact ⟨.kept _, .loadFrame s hfit⟩
    | mkpkt =>
      obtain ⟨-, rfl⟩ | ⟨-, p, -, hfit, rfl⟩ := hnext
      · exact ⟨.kept _, .kept _⟩
      · exact ⟨.kept _, .loadPacket s p hfit⟩
    | mkack =>
      generalize ackMarker = p at hnext
      obtain ⟨-, rfl⟩ | ⟨-, hfit, rfl⟩ := hnext
      · exact ⟨.kept _, .kept _⟩
      · exact ⟨.kept _, .loadPacket s p hfit⟩
  · rw [exec_halted hs] at h
    cases h
    exact ⟨.kept _, .kept _⟩

/-- With a fault in the next state both buffers are as they were: the fault was there before, or its entry wrote it alone. -/
theorem exec_buffers_of_fault (h : exec i s = .next t) (ht : t.Halted) :
    t.plen = s.plen ∧ t.flen = s.flen ∧ t.pbuf = s.pbuf ∧ t.fbuf = s.fbuf := by
  by_cases hs : s.fault = .none
  · have hends := exec_endsWith hs h
    rw [hends.eq_raise (hends.fault_eq ▸ ht)]
    exact ⟨rfl, rfl, rfl, rfl⟩
  · rw [eq_of_exec_halted hs h]
    exact ⟨rfl, rfl, rfl, rfl⟩

theorem payloadUse_keep (hpclr : i ≠ .pclr) (hpush : ∀ b, i ≠ .ppush b) (hpld : i ≠ .pld) : payloadUse i = .keep := by
  cases i with
  | pclr => exact absurd rfl hpclr
  | ppush b => exact absurd rfl (hpush b)
  | pld => exact absurd rfl hpld
  | _ => rfl

theorem frameUse_keep (hload : i ∉ [Instr.fclr, .enc, .mkpkt, .mkack]) (hpush : ∀ b, i ≠ .fpush b) : frameUse i = .keep := by
  cases i with
  | fclr | enc | mkpkt | mkack => exact absurd (by decide) hload
  | fpush b => exact absurd rfl (hpush b)
  | _ => rfl

theorem frameUse_load (hload : i ∈ [Instr.fclr, .enc, .mkpkt, .mkack]) : frameUse i = .load := by
  simp only [List.mem_cons, List.not_mem_nil, or_false] at hload
  rcases hload with rfl | rfl | rfl | rfl <;> rfl

/-- Settles O53: each clause is what `BufferStep` says of one use of a buffer, by `exec_bufferSteps`. -/
theorem buffersOutsideTheWriteSetStay : Obligations.BuffersOutsideTheWriteSetStay := by
  intro i s t h
  obtain ⟨hpay, hframe⟩ := exec_bufferSteps h
  refine ⟨fun hpclr hpush hpld => ?_, fun hload hpush => ?_, ?_, ?_, ?_, fun hload a ha => ?_, fun hfault => ?_⟩
  · rw [payloadUse_keep hpclr hpush hpld] at hpay
    obtain ⟨hlen, hbuf⟩ := hpay.eq_of_keep
    exact ⟨hlen, fun a => congrArg (Memory.read · a) hbuf⟩
  · rw [frameUse_keep hload hpush] at hframe
    obtain ⟨hlen, hbuf⟩ := hframe.eq_of_keep
    exact ⟨hlen, fun a => congrArg (Memory.read · a) hbuf⟩
  · rintro b rfl a ha
    exact BufferStep.read_of_push hpay ha
  · rintro b rfl a ha
    exact BufferStep.read_of_push hframe ha
  · rintro (rfl | rfl) a ha <;> exact BufferStep.read_of_load hpay ha
  · rw [frameUse_load hload] at hframe
    exact hframe.read_of_load ha
  · obtain ⟨hplen, hflen, hpbuf, hfbuf⟩ := exec_buffers_of_fault h hfault
    exact ⟨hplen, hflen, fun a => ⟨congrArg (Memory.read · a) hpbuf, congrArg (Memory.read · a) hfbuf⟩⟩

/-- Settles O54, by `BufferStep.read_past_capacity`. -/
theorem noStoreAtOrPastCapacity : Obligations.NoStoreAtOrPastCapacity := by
  intro i s t h
  obtain ⟨hpay, hframe⟩ := exec_bufferSteps h
  exact ⟨fun _ _ => hpay.read_past_capacity, fun _ _ => hframe.read_past_capacity⟩

/-- Settles O55, by `BufferStep.keeps_wf`. -/
theorem commandsKeepBuffersCanonical : Obligations.CommandsKeepBuffersCanonical := by
  intro i s t h hp hf
  obtain ⟨hpay, hframe⟩ := exec_bufferSteps h
  exact ⟨hpay.keeps_wf hp, hframe.keeps_wf hf⟩

end Sys2Proof.Machine
end

section
/-! No command reads a byte at or past a length (10_state.md R31): two states that the host cannot tell apart answer every
instruction alike. Each shared operation is shown to keep this relation, and the instructions are built from these operations. -/

namespace Sys2Proof.Machine

/-! ## States that the host cannot tell apart -/

/-- A state of the same configuration that the host cannot tell from `s`: the buffers agree below the lengths, and what the host
has yet to give may differ. -/
inductive HostEqual (s : State) : State → Prop where
  | intro (m f : Memory) (rest : List HostAction) (hp : ∀ a, a < s.plen → m.read a = s.pbuf.read a)
      (hf : ∀ a, a < s.flen → f.read a = s.fbuf.read a) : HostEqual s { s with pbuf := m, fbuf := f, pending := rest }

theorem FaultCode.code_injective : Function.Injective FaultCode.code := by
  intro x y h
  cases x <;> cases y <;> simp_all [FaultCode.code]

theorem State.observe_payload_eq_iff {s s' : State} (hlen : s.plen = s'.plen) :
    s.observe.payload = s'.observe.payload ↔ ∀ a, a < s.plen → s'.pbuf.read a = s.pbuf.read a := by
  simp only [State.observe, ← hlen, List.map_inj_left, List.mem_range, State.hostReadPayload]
  exact forall₂_congr fun a ha => by rw [if_pos ha, if_pos ha, eq_comm]

theorem State.observe_frame_eq_iff {s s' : State} (hlen : s.flen = s'.flen) :
    s.observe.frame = s'.observe.frame ↔ ∀ a, a < s.flen → s'.fbuf.read a = s.fbuf.read a := by
  simp only [State.observe, ← hlen, List.map_inj_left, List.mem_range, State.hostReadFrame]
  exact forall₂_congr fun a ha => by rw [if_pos ha, if_pos ha, eq_comm]

theorem HostEqual.of_observe {s s' : State} (hconfig : s.config = s'.config) (h : s.observe = s'.observe) : HostEqual s s' := by
  have hp := (State.observe_payload_eq_iff (congrArg Observation.plen h)).mp (congrArg Observation.payload h)
  have hf := (State.observe_frame_eq_iff (congrArg Observation.flen h)).mp (congrArg Observation.frame h)
  simp only [State.observe, Observation.mk.injEq] at h
  obtain ⟨hseq, hcsum, hres, hrunt, hfault, hfcmd, hplen, hflen, -, -⟩ := h
  have hsame : s' = { s with pbuf := s'.pbuf, fbuf := s'.fbuf, pending := s'.pending } := by
    rw [hconfig, hseq, hcsum, hres, hrunt, FaultCode.code_injective hfault, hfcmd, hplen, hflen]
  rw [hsame]
  exact .intro _ _ _ hp hf

theorem HostEqual.observe_eq {s s' : State} (h : HostEqual s s') : s.observe = s'.observe := by
  obtain ⟨m, f, rest, hp, hf⟩ := h
  have hpay := (State.observe_payload_eq_iff (s := s) (s' := { s with pbuf := m, fbuf := f, pending := rest }) rfl).mpr hp
  have hframe := (State.observe_frame_eq_iff (s := s) (s' := { s with pbuf := m, fbuf := f, pending := rest }) rfl).mpr hf
  rw [State.observe, State.observe, Observation.mk.injEq]
  exact ⟨rfl, rfl, rfl, rfl, rfl, rfl, rfl, rfl, hpay, hframe⟩

section
variable {s s' : State}

theorem HostEqual.payload_eq : HostEqual s s' → s'.payload = s.payload
  | .intro _ _ _ hp _ => Memory.readFrom_congr fun a _ ha => hp a (Nat.zero_add s.plen ▸ ha)

theorem HostEqual.frame_eq : HostEqual s s' → s'.frame = s.frame
  | .intro _ _ _ _ hf => Memory.readFrom_congr fun a _ ha => hf a (Nat.zero_add s.flen ▸ ha)

/-! ## The updates keep the relation -/

theorem HostEqual.raise (x : FaultCode) (cw : CmdWord) : HostEqual s s' → HostEqual (s.raise x cw) (s'.raise x cw)
  | .intro m f rest hp hf => .intro m f rest hp hf

theorem HostEqual.setRes (b : Bool) : HostEqual s s' → HostEqual (s.setRes b) (s'.setRes b)
  | .intro m f rest hp hf => .intro m f rest hp hf

theorem HostEqual.setRunt (b : Bool) : HostEqual s s' → HostEqual (s.setRunt b) (s'.setRunt b)
  | .intro m f rest hp hf => .intro m f rest hp hf

theorem HostEqual.withSeq (b : Byte) : HostEqual s s' → HostEqual { s with seq := b } { s' with seq := b }
  | .intro m f rest hp hf => .intro m f rest hp hf

theorem HostEqual.withCsum (c : Half) : HostEqual s s' → HostEqual { s with csum := c } { s' with csum := c }
  | .intro m f rest hp hf => .intro m f rest hp hf

theorem HostEqual.loadPayload (bs : List Byte) : HostEqual s s' → HostEqual (s.loadPayload bs) (s'.loadPayload bs)
  | .intro _ f rest _ hf => .intro (Memory.ofBytes 0 bs) f rest (fun _ _ => rfl) hf

theorem HostEqual.loadFrame (bs : List Byte) : HostEqual s s' → HostEqual (s.loadFrame bs) (s'.loadFrame bs)
  | .intro m _ rest hp _ => .intro m (Memory.ofBytes 0 bs) rest hp (fun _ _ => rfl)

/-- Two buffers that agree below `n` agree below any length that the register holds for `n + 1`, after a store at `n`. -/
theorem Memory.read_write_agree {m m' : Memory} {n : Nat} (h : ∀ a, a < n → m'.read a = m.read a) (b : Byte) (c : Config)
    (a : Nat) (ha : a < c.toLen (n + 1)) : (m'.write n b).read a = (m.write n b).read a := by
  have hle : c.toLen (n + 1) ≤ n + 1 := Nat.mod_le ..
  by_cases han : a = n
  · rw [han, Memory.read_write_same, Memory.read_write_same]
  · rw [Memory.read_write_other _ _ han, Memory.read_write_other _ _ han, h a (by omega)]

theorem HostEqual.appendPayload (b : Byte) : HostEqual s s' → HostEqual (s.appendPayload b) (s'.appendPayload b)
  | .intro m f rest hp hf => .intro (m.write s.plen b) f rest (Memory.read_write_agree hp b s.config) hf

theorem HostEqual.appendFrame (b : Byte) : HostEqual s s' → HostEqual (s.appendFrame b) (s'.appendFrame b)
  | .intro m f rest hp hf => .intro m (f.write s.flen b) rest hp (Memory.read_write_agree hf b s.config)

end

/-! ## Answers that are alike -/

/-- Both next states that the host cannot tell apart, or the same stop of the model. -/
inductive Alike : Outcome → Outcome → Prop where
  | next {t t' : State} (h : HostEqual t t') : Alike (.next t) (.next t')
  | fault (x : Fault) : Alike (.fault x) (.fault x)

section
variable {s s' : State} (h : HostEqual s s')
include h

theorem Alike.whileRunning {o o' : Outcome} (ho : Alike o o') :
    Alike (Machine.whileRunning s o) (Machine.whileRunning s' o') := by
  have hfault : s'.fault = s.fault := by cases h; rfl
  by_cases hs : s.fault = .none
  · rwa [whileRunning_running _ hs, whileRunning_running _ (hfault.trans hs)]
  · rw [whileRunning_halted _ hs, whileRunning_halted _ (hfault ▸ hs)]
    exact .next h

theorem Alike.illegalWord (cw : CmdWord) : Alike (Machine.illegalWord cw s) (Machine.illegalWord cw s') :=
  .whileRunning h (.next (h.raise _ _))

theorem Alike.withPayload {body body' : List Byte → Outcome} (hbody : ∀ p, Alike (body p) (body' p)) :
    Alike (Machine.withPayload s body) (Machine.withPayload s' body') := by
  rw [Machine.withPayload, Machine.withPayload, h.payload_eq]
  cases s.payload with
  | some p => exact hbody p
  | none => exact .fault _

theorem Alike.withFrame {body body' : List Byte → Outcome} (hbody : ∀ f, Alike (body f) (body' f)) :
    Alike (Machine.withFrame s body) (Machine.withFrame s' body') := by
  rw [Machine.withFrame, Machine.withFrame, h.frame_eq]
  cases s.frame with
  | some f => exact hbody f
  | none => exact .fault _

theorem Alike.withSendableSeq (cw : CmdWord) {o o' : Outcome} (ho : Alike o o') :
    Alike (Machine.withSendableSeq cw s o) (Machine.withSendableSeq cw s' o') := by
  have hseq : s'.seq = s.seq := by cases h; rfl
  rw [Machine.withSendableSeq, Machine.withSendableSeq, hseq]
  split
  · exact .next (h.raise _ _)
  · exact ho

theorem Alike.pushPayload (cw : CmdWord) (b : Byte) : Alike (Machine.pushPayload cw b s) (Machine.pushPayload cw b s') := by
  obtain ⟨hlen, hconfig⟩ : s'.plen = s.plen ∧ s'.config = s.config := by cases h; exact ⟨rfl, rfl⟩
  rw [Machine.pushPayload, Machine.pushPayload, hlen, hconfig]
  split
  · exact .next (h.raise _ _)
  · split
    · exact .next (h.appendPayload b)
    · exact .fault _

theorem Alike.pushFrame (cw : CmdWord) (b : Byte) : Alike (Machine.pushFrame cw b s) (Machine.pushFrame cw b s') := by
  obtain ⟨hlen, hconfig⟩ : s'.flen = s.flen ∧ s'.config = s.config := by cases h; exact ⟨rfl, rfl⟩
  rw [Machine.pushFrame, Machine.pushFrame, hlen, hconfig]
  split
  · exact .next (h.raise _ _)
  · split
    · exact .next (h.appendFrame b)
    · exact .fault _

theorem Alike.storePayload (bs : List Byte) : Alike (Machine.storePayload bs s) (Machine.storePayload bs s') := by
  have hconfig : s'.config = s.config := by cases h; rfl
  rw [Machine.storePayload, Machine.storePayload, hconfig]
  split
  · exact .next (h.loadPayload bs)
  · exact .fault _

theorem Alike.storeFrame (bs : List Byte) : Alike (Machine.storeFrame bs s) (Machine.storeFrame bs s') := by
  have hconfig : s'.config = s.config := by cases h; rfl
  rw [Machine.storeFrame, Machine.storeFrame, hconfig]
  split
  · exact .next (h.loadFrame bs)
  · exact .fault _

theorem Alike.examineFrame {onRunt onRunt' : State → Outcome} {onFrame onFrame' : List Byte → State → Outcome}
    (hrunt : ∀ {t t'}, HostEqual t t' → Alike (onRunt t) (onRunt' t'))
    (hframe : ∀ f {t t'}, HostEqual t t' → Alike (onFrame f t) (onFrame' f t')) :
    Alike (Machine.examineFrame s onRunt onFrame) (Machine.examineFrame s' onRunt' onFrame') := by
  have hiff : s'.FrameIsRunt ↔ s.FrameIsRunt := by cases h; rfl
  simp only [Machine.examineFrame, hiff]
  split
  · exact hrunt (h.setRunt true)
  · exact .withFrame h fun f => hframe f (h.setRunt false)

theorem Alike.makePacket (p : List Byte) : Alike (Machine.makePacket p s) (Machine.makePacket p s') := by
  have hpacket := Alike.storeFrame (h.withCsum (checksum s.seq p)) (encodeFrame s.seq p (checksum s.seq p))
  cases h
  exact hpacket

end

/-- Every instruction is built from the operations above, and reads no register but those in which the two states agree. -/
theorem exec_alike {s s' : State} (h : HostEqual s s') (i : Instr) : Alike (exec i s) (exec i s') := by
  obtain ⟨m, f, rest, hp, hf⟩ := h
  have h := HostEqual.intro m f rest hp hf
  cases i with
  | wrseq b => exact .whileRunning h (.next (h.withSeq b))
  | wrcsum c => exact .whileRunning h (.next (h.withCsum c))
  | pclr => exact .whileRunning h (.next (h.loadPayload []))
  | ppush b => exact .whileRunning h (.pushPayload h _ b)
  | fclr => exact .whileRunning h (.next (h.loadFrame []))
  | fpush b => exact .whileRunning h (.pushFrame h _ b)
  | csum => exact .whileRunning h (.withPayload h fun p => .next (h.withCsum _))
  | vrfy => exact .whileRunning h (.withPayload h fun p => .next (h.setRes _))
  | enc => exact .whileRunning h (.withSendableSeq h _ (.withPayload h fun p => .storeFrame h _))
  | hseq | isack | iscor =>
    exact .whileRunning h (.examineFrame h (fun ht => .next (ht.setRes _)) fun f _ _ ht => .next (ht.setRes _))
  | pld => exact .whileRunning h (.examineFrame h (fun ht => .next (ht.loadPayload [])) fun f _ _ ht => .storePayload ht _)
  | mkpkt => exact .whileRunning h (.withSendableSeq h _ (.withPayload h fun p => .makePacket h p))
  | mkack => exact .whileRunning h (.withSendableSeq h _ (.makePacket h ackMarker))
  | frameData | frameAck0 | frameAck1 => exact .illegalWord h _

theorem Alike.cases_observe {o o' : Outcome} (h : Alike o o') :
    (∃ t t', o = .next t ∧ o' = .next t' ∧ t.observe = t'.observe) ∨ ∃ x, o = .fault x ∧ o' = .fault x := by
  cases h with
  | next h => exact .inl ⟨_, _, rfl, rfl, h.observe_eq⟩
  | fault x => exact .inr ⟨x, rfl, rfl⟩

/-- Settles O56, by `exec_alike`. -/
theorem staleBytesNeverMatter : Obligations.StaleBytesNeverMatter := fun i _ _ hconfig hobs =>
  (exec_alike (HostEqual.of_observe hconfig hobs) i).cases_observe

end Sys2Proof.Machine
end
